-- ==== Sys2Proof/Word.lean ====
section
/-! DEFINITION. The words of the machine: bytes (u8, R10), the 7-bit addresses of the bank's 128 cells (R15) and the
32-bit millisecond times (R34). -/
namespace Sys2Proof

/-- A u8 of R10: a stored byte, a data byte on the bus, a register address byte (R42) or a duty (R35). -/
abbrev Byte := BitVec 8

/-- The address of one of the 128 cells of the bank, 0x00 to 0x7F (R15, R41). -/
abbrev RegAddr := BitVec 7

/-- A time of the millisecond clock: a u32 that wraps (R34). -/
abbrev Millis := BitVec 32

/-- The number of a contact input: channel c of the text (1 to 12) is `c - 1` here (R26). -/
abbrev Channel := Fin 12

end Sys2Proof
end

