-- ==== Sys2Proof/Machine/Signals.lean ====
section
/-! DEFINITION. What reaches the block, as plain data: the forms in which the hardware receives an instruction (a frame
on the bus, a per-byte operation at the pointer, a command byte, an internal event), the pins, and the events an
execution is a sequence of (R52, R54). -/
namespace Sys2Proof

/-- The form in which an instruction reaches the block (R66 to R71). -/
inductive Code where
  /-- A whole bus frame: the address byte, then its data bytes. In a read frame the data bytes are the slots the slave
  fills: only their number counts (R66 to R68). -/
  | frame (bytes : List Byte)
  /-- One byte of a read transaction, moved with the address pointer at `p` (R70). -/
  | readAt (p : Byte)
  /-- One data byte `v` of a write transaction, moved with the address pointer at `p` (R70). -/
  | writeAt (p v : Byte)
  /-- One command byte, written at the command port (R71). -/
  | command (c : Byte)
  /-- The internal event TICK, which has no bus encoding (R123). -/
  | tick
  /-- The internal event ENC_EDGE, which has no bus encoding (R101). -/
  | encEdge
  deriving DecidableEq, Repr, Inhabited

/-- The pins the block reads (R36). -/
inductive PinName where
  /-- A contact input. -/
  | input (i : Channel)
  | encA
  | encB
  | btn
  deriving DecidableEq, Repr, Inhabited

/-- The levels the environment drives (R36): a contact input reads 1 when open, the button 0 when pressed. -/
structure Pins where
  raw : BitVec 12
  encA : Bool
  encB : Bool
  btn : Bool
  deriving DecidableEq, Repr, Inhabited

/-- The bus events below the transaction level, which R146 says a model refuses. -/
inductive BusFault where
  | partialByte
  | noStop
  | busError
  | arbitrationLost
  | masterNack
  deriving DecidableEq, Repr, Inhabited

/-- What an execution is a sequence of: the steps of the four agents of R52. `code` carries the Host's frames, TICK and
ENC_EDGE; beside these it can carry a per-byte operation or a command on its own (DESIGN CHOICE, log 2: more behaviours
than the hardware has, safe). -/
inductive Event where
  | code (c : Code)
  /-- ENV_TIME (R128). -/
  | envTime
  /-- ENV_PIN (R129). -/
  | envPin (p : PinName) (level : Bool)
  /-- A bus event below the transaction level (R146). -/
  | broken (k : BusFault)
  deriving DecidableEq, Repr, Inhabited

end Sys2Proof
end

