-- ==== Sys2Proof/Config.lean ====
section
/-! DEFINITION. The parameters of R9: the values the spec fixes, and the free values, which are constants without a
body, so that a claim holds for every value of them. -/
namespace Sys2Proof.Config

/-- `BANK_SIZE` (R9). -/
def bankSize : Nat := 128
/-- `I2C_SLAVE_ADDR` (R9, R116). -/
def slaveAddr : BitVec 7 := 0x42#7
/-- The address byte: the slave address in bits 7:1, the direction in bit 0, 1 = read (R66; PRESUMED by the spec from
the I²C standard, log 31). -/
def addressByte (read : Bool) : Byte := slaveAddr ++ BitVec.ofBool read
/-- `CMD_PORT` (R9). -/
def cmdPort : Byte := 0xF0#8
/-- `I2C_BUF`: the data bytes a transaction honours, REG counted (R9, R69; DESIGN CHOICE of the spec D5, log 5). -/
def i2cBuf : Nat := 32
/-- `TICK_MS` (R9). -/
def tickMs : Millis := 10#32
/-- `DOUBLE_CLICK_MS` (R9). -/
def doubleClickMs : Millis := 300#32
/-- `HOLD_MS` (R9). -/
def holdMs : Millis := 1000#32
/-- `DEVICE_ID` (R9, R2). -/
def deviceId : Byte := 0x52#8
/-- `FW_MAJOR` (R9, R2). -/
def fwMajor : Byte := 0x01#8
/-- `FW_MINOR` (R9, R2). -/
def fwMinor : Byte := 0x00#8
/-- `FW_PATCH` (R9, R2). -/
def fwPatch : Byte := 0x00#8
/-- `BACKLIGHT_DEFAULT` (R9). -/
def backlightDefault : Byte := 128#8
/-- `DEBOUNCE_DEFAULT_MS` (R9). -/
def debounceDefaultMs : Byte := 50#8
/-- `PWM_CARRIER_HZ` (R9, R115): no rule of the model reads it (R160). -/
def pwmCarrierHz : Nat := 1000

/-- `CMD_NOP` (R9, R71; DESIGN CHOICE of the spec D7, log 7). -/
def cmdNop : Byte := 0x00#8
/-- The code of CMD_RESET (R71). -/
def cmdReset : Byte := 0x01#8
/-- The code of CMD_FACTORY_RESET (R71). -/
def cmdFactoryReset : Byte := 0x02#8
/-- The code of CMD_CALIBRATE_VU (R71). -/
def cmdCalibrateVu : Byte := 0x10#8
/-- The one value the spec shows as an invalid command (R71, R9). -/
def cmdShownInvalid : Byte := 0x77#8

/-- FREE VALUE (R9, D8, log 8). The six OPEN codes are pairwise distinct and none is 0x00, 0x01, 0x02, 0x10 or 0x77. The
251 bytes left are numbered by `legalTestCode`; an unknown permutation of the numbers gives any six distinct ones. -/
opaque testCodeOrder : Equiv.Perm (Fin 251)

/-- The 251 bytes other than 0x00, 0x01, 0x02, 0x10 and 0x77, in rising order. -/
def legalTestCode (k : Fin 251) : Byte :=
  let past02 := k.val + 3
  let past10 := if past02 < 0x10 then past02 else past02 + 1
  BitVec.ofNat 8 (if past10 < 0x77 then past10 else past10 + 1)

/-- The six OPEN codes in the order of R9 (free values, log 8). -/
def testCode (k : Fin 6) : Byte := legalTestCode (testCodeOrder (k.castLE (by omega)))

/-- `CMD_TEST_VU_LEFT` (R9), OPEN. -/
def cmdTestVuLeft : Byte := testCode 0
/-- `CMD_TEST_VU_RIGHT` (R9), OPEN. -/
def cmdTestVuRight : Byte := testCode 1
/-- `CMD_TEST_VU_BOTH` (R9), OPEN. -/
def cmdTestVuBoth : Byte := testCode 2
/-- `CMD_TEST_BACKLIGHT` (R9), OPEN. -/
def cmdTestBacklight : Byte := testCode 3
/-- `CMD_TEST_TAPE_MOTOR` (R9), OPEN. -/
def cmdTestTapeMotor : Byte := testCode 4
/-- `CMD_TEST_ALL` (R9), OPEN. -/
def cmdTestAll : Byte := testCode 5

/-- The codes that name a command (R71, R91). -/
def namedCommands : List Byte :=
  [cmdNop, cmdReset, cmdFactoryReset, cmdCalibrateVu, cmdTestVuLeft, cmdTestVuRight, cmdTestVuBoth,
   cmdTestBacklight, cmdTestTapeMotor, cmdTestAll]

/-- FREE VALUE. `INIT_PREV_QUAD` (R9, R40, D11, log 11): any value 0..3. -/
opaque initPrevQuad : BitVec 2

/-- FREE VALUE. The pin levels at power-up, a draw of the environment (R40, R148, D32, log 26). -/
opaque powerUpPins : Pins

/-- FREE VALUE. The n-th byte drawn where R120 says `draw u8` (D6, log 6). -/
opaque freeByte : Nat → Byte

/-- FREE VALUE. The n-th event an execution takes where none is pending: any agent may step (R54, D1, D13, log 1). -/
opaque freeEvent : Nat → Event

/-- FREE VALUE. `PWM_WAVEFORM` (R9, R115, D19, log 19): the level of an output, driven at a duty, at the n-th instant of
a carrier period. No rule of the model reads it. -/
opaque pwmWaveform : Byte → Nat → Bool

end Sys2Proof.Config
end

