-- ==== Sys2Proof/Syntax.lean ====
section
/-! DEFINITION. The instructions: one constructor per row of spec/opcode_table.json, in the table's order. An
operand is what the row's match and mask leave open: the address bits a bank row does not fix, the data byte, the data
bytes of a write frame, the length of a read frame. -/
namespace Sys2Proof

/-- The 26 rows of the opcode table (R8, R66 to R71): host bus transactions, the per-byte bank operations a
transaction performs at the address pointer, the commands, and the two internal events. -/
inductive Instr where
  /-- I2C_WRITE (R118): REG, then the N - 1 bytes after it. -/
  | i2cWrite (reg : Byte) (data : List Byte)
  /-- I2C_ADDR_ONLY (R119): a write frame without a data byte. -/
  | i2cAddrOnly
  /-- I2C_READ (R120) of `n` bytes. -/
  | i2cRead (n : Nat)
  /-- BANK_RD (R79) at bank address `a`. -/
  | bankRd (a : RegAddr)
  /-- BANK_RD_ICL (R80), at 0x52. -/
  | bankRdIcl
  /-- BANK_RD_ICH (R81), at 0x53. -/
  | bankRdIch
  /-- BANK_RD_EDELTA (R82), at 0x62. -/
  | bankRdEdelta
  /-- BANK_RD_INVALID (R83), at 0x80 + `a`. -/
  | bankRdInvalid (a : RegAddr)
  /-- BANK_WR (R85) of `v` at bank address `a`. -/
  | bankWr (a : RegAddr) (v : Byte)
  /-- BANK_WR_RO (R86) of `v` at the identity address `a`, 0x00 to 0x03. -/
  | bankWrRo (a : BitVec 2) (v : Byte)
  /-- BANK_WR_CONTROL (R87) of `v`, at 0x10. -/
  | bankWrControl (v : Byte)
  /-- BANK_WR_CMD (R88) of the command byte `v`, at 0xF0. -/
  | bankWrCmd (v : Byte)
  /-- BANK_WR_INVALID (R89) of `v`, at 0x80 + `a`. -/
  | bankWrInvalid (a : RegAddr) (v : Byte)
  /-- CMD_NOP (R92). -/
  | cmdNop
  /-- CMD_RESET (R93). -/
  | cmdReset
  /-- CMD_FACTORY_RESET (R94). -/
  | cmdFactoryReset
  /-- CMD_CALIBRATE_VU (R94). -/
  | cmdCalibrateVu
  /-- CMD_TEST_VU_LEFT (R94). -/
  | cmdTestVuLeft
  /-- CMD_TEST_VU_RIGHT (R94). -/
  | cmdTestVuRight
  /-- CMD_TEST_VU_BOTH (R94). -/
  | cmdTestVuBoth
  /-- CMD_TEST_BACKLIGHT (R94). -/
  | cmdTestBacklight
  /-- CMD_TEST_TAPE_MOTOR (R94). -/
  | cmdTestTapeMotor
  /-- CMD_TEST_ALL (R94). -/
  | cmdTestAll
  /-- CMD_INVALID (R95): the command byte `c` names no command. -/
  | cmdInvalid (c : Byte)
  /-- TICK (R123), an internal event. -/
  | tick
  /-- ENC_EDGE (R101), an internal event. -/
  | encEdge
  deriving DecidableEq, Repr

end Sys2Proof
end

