-- ==== Sys2Proof/WellFormed.lean ====
section
/-! DEFINITION. Which terms of Instr are instructions: the operands each row's rule admits. A row's operand may not fall
under a more specific row (R70), a read has at least one byte (R68), and CMD_INVALID's byte names no command (R95). -/
namespace Sys2Proof

/-- The operands that the row's own rule admits. -/
def Instr.wellFormed : Instr → Bool
  | .i2cWrite _ _ => true
  | .i2cAddrOnly => true
  | .i2cRead n => decide (1 ≤ n)
  | .bankRd a => decide (a ≠ 0x52#7) && decide (a ≠ 0x53#7) && decide (a ≠ 0x62#7)
  | .bankRdIcl => true
  | .bankRdIch => true
  | .bankRdEdelta => true
  | .bankRdInvalid _ => true
  | .bankWr a _ => decide (0x04#7 ≤ a) && decide (a ≠ 0x10#7)
  | .bankWrRo _ _ => true
  | .bankWrControl _ => true
  | .bankWrCmd _ => true
  | .bankWrInvalid a _ => decide (a ≠ 0x70#7)
  | .cmdNop => true
  | .cmdReset => true
  | .cmdFactoryReset => true
  | .cmdCalibrateVu => true
  | .cmdTestVuLeft => true
  | .cmdTestVuRight => true
  | .cmdTestVuBoth => true
  | .cmdTestBacklight => true
  | .cmdTestTapeMotor => true
  | .cmdTestAll => true
  | .cmdInvalid c => decide (c ∉ Config.namedCommands)
  | .tick => true
  | .encEdge => true

end Sys2Proof
end

