-- ==== Sys2Proof/Decode.lean ====
section
/-! DEFINITION. The decoder (R66 to R71): total on any code, rejecting by name; the encoder, written from the same
tables; and the opcode table itself as rows of mask and match. -/
namespace Sys2Proof

/-- Why a code is no instruction of the block. -/
inductive Reject where
  /-- A START and a STOP with no address byte between them: no frame of R66. -/
  | noAddressByte
  /-- The frame is addressed elsewhere: it has no effect on the block (R43, R116). -/
  | otherAddress (b : Byte)
  /-- A read frame of no byte: a model has no step for it (R68, R146, D24). -/
  | zeroLengthRead
  deriving DecidableEq, Repr

/-- The seven low bits of a bus address: the cell an address below 0x80 names (R42). -/
def cellAddr (p : Byte) : RegAddr := p.setWidth 7

/-- The bus address of a cell of the bank (R42). -/
def busAddr (a : RegAddr) : Byte := a.setWidth 8

/-- The bus address 0x80 + `a` of an address outside the bank (R42). -/
def outsideAddr (a : RegAddr) : Byte := 0x80#8 ||| a.setWidth 8

/-- The read operation the pointer selects (R70, first table): the most specific row that matches. -/
def decodeRead (p : Byte) : Instr :=
  if p = 0x52#8 then .bankRdIcl
  else if p = 0x53#8 then .bankRdIch
  else if p = 0x62#8 then .bankRdEdelta
  else if p < 0x80#8 then .bankRd (cellAddr p)
  else .bankRdInvalid (cellAddr p)

/-- The write operation the pointer selects (R70, second table): the most specific row that matches. -/
def decodeWrite (p v : Byte) : Instr :=
  if p = Config.cmdPort then .bankWrCmd v
  else if p = 0x10#8 then .bankWrControl v
  else if p &&& 0xFC#8 = 0x00#8 then .bankWrRo (p.setWidth 2) v
  else if p < 0x80#8 then .bankWr (cellAddr p) v
  else .bankWrInvalid (cellAddr p) v

/-- The command a byte names (R71). The byte 0x77 is tested before the six OPEN codes, none of which is 0x77 (R9). -/
def decodeCommand (c : Byte) : Instr :=
  if c = Config.cmdNop then .cmdNop
  else if c = Config.cmdReset then .cmdReset
  else if c = Config.cmdFactoryReset then .cmdFactoryReset
  else if c = Config.cmdCalibrateVu then .cmdCalibrateVu
  else if c = Config.cmdShownInvalid then .cmdInvalid c
  else if c = Config.cmdTestVuLeft then .cmdTestVuLeft
  else if c = Config.cmdTestVuRight then .cmdTestVuRight
  else if c = Config.cmdTestVuBoth then .cmdTestVuBoth
  else if c = Config.cmdTestBacklight then .cmdTestBacklight
  else if c = Config.cmdTestTapeMotor then .cmdTestTapeMotor
  else if c = Config.cmdTestAll then .cmdTestAll
  else .cmdInvalid c

/-- A whole frame (R66 to R68, R119). -/
def decodeFrame (bytes : List Byte) : Except Reject Instr :=
  match bytes with
  | [] => .error .noAddressByte
  | b :: data =>
    if b = Config.addressByte false then
      match data with
      | [] => .ok .i2cAddrOnly
      | reg :: rest => .ok (.i2cWrite reg rest)
    else if b = Config.addressByte true then
      match data with
      | [] => .error .zeroLengthRead
      | _ :: _ => .ok (.i2cRead data.length)
    else .error (.otherAddress b)

/-- The decoder: the instruction a code stands for, or the reason it is none. -/
def decode (c : Code) : Except Reject Instr :=
  match c with
  | .frame bytes => decodeFrame bytes
  | .readAt p => .ok (decodeRead p)
  | .writeAt p v => .ok (decodeWrite p v)
  | .command c => .ok (decodeCommand c)
  | .tick => .ok .tick
  | .encEdge => .ok .encEdge

/-- The code of an instruction (R66 to R71). The slots of a read frame are filled by the slave; here they are 0x00. -/
def encode (i : Instr) : Code :=
  match i with
  | .i2cWrite reg data => .frame (Config.addressByte false :: reg :: data)
  | .i2cAddrOnly => .frame [Config.addressByte false]
  | .i2cRead n => .frame (Config.addressByte true :: List.replicate n 0x00#8)
  | .bankRd a => .readAt (busAddr a)
  | .bankRdIcl => .readAt 0x52#8
  | .bankRdIch => .readAt 0x53#8
  | .bankRdEdelta => .readAt 0x62#8
  | .bankRdInvalid a => .readAt (outsideAddr a)
  | .bankWr a v => .writeAt (busAddr a) v
  | .bankWrRo a v => .writeAt (a.setWidth 8) v
  | .bankWrControl v => .writeAt 0x10#8 v
  | .bankWrCmd v => .writeAt Config.cmdPort v
  | .bankWrInvalid a v => .writeAt (outsideAddr a) v
  | .cmdNop => .command Config.cmdNop
  | .cmdReset => .command Config.cmdReset
  | .cmdFactoryReset => .command Config.cmdFactoryReset
  | .cmdCalibrateVu => .command Config.cmdCalibrateVu
  | .cmdTestVuLeft => .command Config.cmdTestVuLeft
  | .cmdTestVuRight => .command Config.cmdTestVuRight
  | .cmdTestVuBoth => .command Config.cmdTestVuBoth
  | .cmdTestBacklight => .command Config.cmdTestBacklight
  | .cmdTestTapeMotor => .command Config.cmdTestTapeMotor
  | .cmdTestAll => .command Config.cmdTestAll
  | .cmdInvalid c => .command c
  | .tick => .tick
  | .encEdge => .encEdge

/-- What the first byte of a code of each kind is: the four formats of the opcode table that have a match. -/
inductive Format where
  | i2cFrame
  | bankReadOp
  | bankWriteOp
  | cmdByte
  deriving DecidableEq, Repr

/-- A row of the opcode table: its format, match and mask. -/
structure TableRow where
  format : Format
  fixed : Byte
  mask : Byte
  deriving DecidableEq, Repr

/-- The row's match, under its mask (R70). -/
def rowMatches (r : TableRow) (b : Byte) : Bool := b &&& r.mask == r.fixed

/-- The number of 1-bits of a mask (R70). -/
def maskBits (m : Byte) : Nat := (List.range 8).countP (fun k => m.getLsbD k)

/-- The row a byte selects: the matching row with the most 1-bits in its mask (R70), the first of equals. -/
def mostSpecific (rows : List TableRow) (b : Byte) : Option TableRow :=
  rows.foldl (fun best r =>
    if rowMatches r b then
      match best with
      | none => some r
      | some r0 => if maskBits r0.mask < maskBits r.mask then some r else some r0
    else best) none

/-- The table's two rows of write frames and its row of read frames, by their address byte (R66, R67, R68). -/
def frameRows : List TableRow :=
  [⟨.i2cFrame, 0x84#8, 0xFF#8⟩, ⟨.i2cFrame, 0x84#8, 0xFF#8⟩, ⟨.i2cFrame, 0x85#8, 0xFF#8⟩]

/-- The table's rows of read operations (R70). -/
def readRows : List TableRow :=
  [⟨.bankReadOp, 0x00#8, 0x80#8⟩, ⟨.bankReadOp, 0x52#8, 0xFF#8⟩, ⟨.bankReadOp, 0x53#8, 0xFF#8⟩,
   ⟨.bankReadOp, 0x62#8, 0xFF#8⟩, ⟨.bankReadOp, 0x80#8, 0x80#8⟩]

/-- The table's rows of write operations (R70). -/
def writeRows : List TableRow :=
  [⟨.bankWriteOp, 0x00#8, 0x80#8⟩, ⟨.bankWriteOp, 0x00#8, 0xFC#8⟩, ⟨.bankWriteOp, 0x10#8, 0xFF#8⟩,
   ⟨.bankWriteOp, 0xF0#8, 0xFF#8⟩, ⟨.bankWriteOp, 0x80#8, 0x80#8⟩]

/-- The table's rows of commands with a fixed code (R71). -/
def commandRows : List TableRow :=
  [⟨.cmdByte, 0x00#8, 0xFF#8⟩, ⟨.cmdByte, 0x01#8, 0xFF#8⟩, ⟨.cmdByte, 0x02#8, 0xFF#8⟩, ⟨.cmdByte, 0x10#8, 0xFF#8⟩]

/-- The row of the table an instruction belongs to; none where the table gives no match (CMD_INVALID, the events). -/
def tableRow (i : Instr) : Option TableRow :=
  match i with
  | .i2cWrite _ _ => some ⟨.i2cFrame, 0x84#8, 0xFF#8⟩
  | .i2cAddrOnly => some ⟨.i2cFrame, 0x84#8, 0xFF#8⟩
  | .i2cRead _ => some ⟨.i2cFrame, 0x85#8, 0xFF#8⟩
  | .bankRd _ => some ⟨.bankReadOp, 0x00#8, 0x80#8⟩
  | .bankRdIcl => some ⟨.bankReadOp, 0x52#8, 0xFF#8⟩
  | .bankRdIch => some ⟨.bankReadOp, 0x53#8, 0xFF#8⟩
  | .bankRdEdelta => some ⟨.bankReadOp, 0x62#8, 0xFF#8⟩
  | .bankRdInvalid _ => some ⟨.bankReadOp, 0x80#8, 0x80#8⟩
  | .bankWr _ _ => some ⟨.bankWriteOp, 0x00#8, 0x80#8⟩
  | .bankWrRo _ _ => some ⟨.bankWriteOp, 0x00#8, 0xFC#8⟩
  | .bankWrControl _ => some ⟨.bankWriteOp, 0x10#8, 0xFF#8⟩
  | .bankWrCmd _ => some ⟨.bankWriteOp, 0xF0#8, 0xFF#8⟩
  | .bankWrInvalid _ _ => some ⟨.bankWriteOp, 0x80#8, 0x80#8⟩
  | .cmdNop => some ⟨.cmdByte, 0x00#8, 0xFF#8⟩
  | .cmdReset => some ⟨.cmdByte, 0x01#8, 0xFF#8⟩
  | .cmdFactoryReset => some ⟨.cmdByte, 0x02#8, 0xFF#8⟩
  | .cmdCalibrateVu => some ⟨.cmdByte, 0x10#8, 0xFF#8⟩
  | .cmdTestVuLeft => some ⟨.cmdByte, Config.cmdTestVuLeft, 0xFF#8⟩
  | .cmdTestVuRight => some ⟨.cmdByte, Config.cmdTestVuRight, 0xFF#8⟩
  | .cmdTestVuBoth => some ⟨.cmdByte, Config.cmdTestVuBoth, 0xFF#8⟩
  | .cmdTestBacklight => some ⟨.cmdByte, Config.cmdTestBacklight, 0xFF#8⟩
  | .cmdTestTapeMotor => some ⟨.cmdByte, Config.cmdTestTapeMotor, 0xFF#8⟩
  | .cmdTestAll => some ⟨.cmdByte, Config.cmdTestAll, 0xFF#8⟩
  | .cmdInvalid _ => none
  | .tick => none
  | .encEdge => none

/-- The format and the first byte of a code, which a table row is matched against; none for an internal event. -/
def codeHead (c : Code) : Option (Format × Byte) :=
  match c with
  | .frame bytes => bytes.head?.map (fun b => (.i2cFrame, b))
  | .readAt p => some (.bankReadOp, p)
  | .writeAt p _ => some (.bankWriteOp, p)
  | .command c => some (.cmdByte, c)
  | .tick => none
  | .encEdge => none

/-- The code that a first byte of a format begins when every later byte is 0x00. -/
def codeOfByte (f : Format) (b : Byte) : Code :=
  match f with
  | .i2cFrame => .frame [b, 0x00#8]
  | .bankReadOp => .readAt b
  | .bankWriteOp => .writeAt b 0x00#8
  | .cmdByte => .command b

/-- The code a word of the opcode table stands for. The word does not say its format, and one byte matches rows of
several formats: R70's rule (the row with the most mask bits, here the first of equals in the table's order) is taken over
the whole table (DESIGN CHOICE, log 34). A word of several bytes is a frame. -/
def tableCode (nbits w : Nat) : Code :=
  if nbits ≤ 8 then
    let b := BitVec.ofNat 8 w
    match mostSpecific (frameRows ++ readRows ++ writeRows ++ commandRows) b with
    | some r => codeOfByte r.format b
    | none => .frame [b, 0x00#8]
  else .frame ((List.range (nbits / 8)).map (fun k => BitVec.ofNat 8 (w >>> (8 * k))))

/-- The instruction the decoder reads from a word of the opcode table; later bytes are 0x00 (see `tableCode`). -/
def decodeTableWord (nbits w : Nat) : Option Instr := (decode (tableCode nbits w)).toOption

end Sys2Proof
end

