-- ==== Sys2Proof/Machine/State.lean ====
section
/-! DEFINITION. The state (R15 to R40, R152) as plain data, the reasons a step can stop, and the state after power-up. -/
namespace Sys2Proof.Machine

/-- The bank of R15 as its cells that differ from their initial value: (address, byte) pairs in rising order of address.
A cell that is not listed reads as `BankInit` leaves it (R39; `bankInitByte`; log 32). -/
abbrev Memory := List Host.Cell

/-- The states of the button classifier (R33). -/
inductive ButtonState where
  | released
  | pressed
  | held
  | doubleClick
  deriving DecidableEq, Repr

/-- The eight PWM duty registers, one per channel of the PWM sink (R35). -/
structure Duties where
  vuLA : Byte
  vuLB : Byte
  vuRA : Byte
  vuRB : Byte
  blA : Byte
  blB : Byte
  tapeA : Byte
  tapeB : Byte
  deriving DecidableEq, Repr

/-- The machine's state. INVENTORY.md lists every piece with the rule that names it. -/
structure State where
  /-- The register bank (R15, R17). -/
  bank : Memory
  /-- The address pointer, which stands where a program counter would (R30, R8). -/
  ptr : Byte
  /-- `stable[0..11]`: the last stable debounced bitmap (R31). -/
  stable : BitVec 12
  /-- `last_change[0..11]`: the time of each channel's last commit (R31). -/
  lastChange : Vector Millis 12
  /-- `position`, an i16 (R32). -/
  position : BitVec 16
  /-- `delta_accum`, an i8 (R32). -/
  deltaAccum : BitVec 8
  /-- `prev_quadrature` (R32). -/
  prevQuad : BitVec 2
  /-- `enc_irq_pending` (R32). -/
  encIrqPending : Bool
  /-- `button_state` (R33). -/
  button : ButtonState
  /-- `press_time_ms` (R33). -/
  pressTime : Millis
  /-- `last_release_ms` (R33). -/
  lastRelease : Millis
  /-- `now`, the millisecond clock (R34). -/
  now : Millis
  /-- `last_tick`, the time of the most recent tick (R34). -/
  lastTick : Millis
  /-- `duty[]` (R35). -/
  duty : Duties
  /-- The pin levels (R36). -/
  pins : Pins
  /-- The bytes the read transaction in progress, or else the last one, has supplied (R120; model's field, log 33). -/
  dataOut : List Byte
  /-- The bytes each completed I2C_READ returned, oldest first (R152; model's field, log 33). -/
  returned : List (List Byte)
  /-- The events to be taken next, first one first (model's field, log 1). -/
  pending : List Event
  /-- How many events were chosen freely (model's field, log 1). -/
  picks : Nat
  /-- How many bytes were drawn (model's field, log 6). -/
  draws : Nat
  deriving DecidableEq, Repr

/-- The block has no fault (R146): "Every operation a host can send has a defined result." -/
inductive Fault where
  deriving DecidableEq, Repr

/-- Why the model has no step. -/
inductive Refusal where
  /-- An instruction without a meaning, refused in exec's own arm. Safe. No arm raises it. -/
  | notModelled (mnemonic : String)
  /-- I2C_READ of no byte (R146, D24), raised by `execI2cRead` and by the step. Safe. -/
  | zeroLengthRead
  /-- A START and a STOP with no address byte, below the transaction level (R66, R146), raised by the step. Safe. -/
  | noAddressByte
  /-- A bus event below the transaction level (R146, D18), raised by the step. Safe. -/
  | belowTransaction (k : BusFault)
  /-- TICK where `(now - last_tick) mod 2^32 < 10`: it is not enabled (R52, R123), raised by `execTick`. Safe. -/
  | tickNotEnabled
  /-- ENC_EDGE where `enc_irq_pending = 0`: it is not enabled (R52, R101), raised by `execEncEdge`. Safe. -/
  | edgeNotPending
  /-- ENV_TIME beyond the bound of R128, which would wrap `now - last_tick` to 0 past an enabled TICK; raised by
  `envTime`. The model excludes such executions (R125, log 12). Safe. -/
  | beyondEnvironmentBound
  deriving DecidableEq, Repr

/-- The state PowerOn gives (R148): the bank as BankInit leaves it, so that nothing is listed, the spec's choices of R40,
the two OPEN values, and no event pending. -/
def State.reset : State where
  bank := []
  ptr := 0x00#8
  stable := 0xFFF#12
  lastChange := Vector.replicate 12 0#32
  position := 0#16
  deltaAccum := 0#8
  prevQuad := Config.initPrevQuad
  encIrqPending := false
  button := .released
  pressTime := 0#32
  lastRelease := 0#32
  now := 0#32
  lastTick := 0#32
  duty := ⟨0#8, 0#8, 0#8, 0#8, 0#8, 0#8, 0#8, 0#8⟩
  pins := Config.powerUpPins
  dataOut := []
  returned := []
  pending := []
  picks := 0
  draws := 0

end Sys2Proof.Machine
end

