-- ==== Sys2Proof/Machine/Flags.lean ====
section
/-! DEFINITION. The bits of CONTROL, STATUS and ERROR (R19, R21, R22, R72) and the setting of one bit of a byte. -/
namespace Sys2Proof.Machine

/-- The fields of CONTROL (R19). -/
inductive ControlBit where
  | enable
  | resetEncoder
  | clearInputs
  | vuEnable
  | backlightEnable
  | tapeEnable
  | saveConfig
  | loadConfig
  deriving DecidableEq, Repr

/-- The fields of STATUS (R21). -/
inductive StatusBit where
  | ready
  | error
  | vuActive
  | backlightOn
  | tapeRunning
  | inputChanged
  | encoderChanged
  | buttonPressed
  deriving DecidableEq, Repr

/-- The named fields of ERROR (R22, R133). Nothing in the block raises the last two (R134). -/
inductive ErrorBit where
  | i2cOverflow
  | invalidReg
  | invalidCmd
  | pwmFault
  | watchdog
  deriving DecidableEq, Repr

/-- The bit's place in CONTROL (R72). -/
def controlIndex : ControlBit → Nat
  | .enable => 0
  | .resetEncoder => 1
  | .clearInputs => 2
  | .vuEnable => 3
  | .backlightEnable => 4
  | .tapeEnable => 5
  | .saveConfig => 6
  | .loadConfig => 7

/-- The bit's place in STATUS (R72). -/
def statusIndex : StatusBit → Nat
  | .ready => 0
  | .error => 1
  | .vuActive => 2
  | .backlightOn => 3
  | .tapeRunning => 4
  | .inputChanged => 5
  | .encoderChanged => 6
  | .buttonPressed => 7

/-- The bit's place in ERROR (R72, R133). -/
def errorIndex : ErrorBit → Nat
  | .i2cOverflow => 0
  | .invalidReg => 1
  | .invalidCmd => 2
  | .pwmFault => 3
  | .watchdog => 4

/-- `v[i] <- b` (R10, R11). -/
def setBit (v : Byte) (i : Nat) (b : Bool) : Byte :=
  if b then v ||| (1#8 <<< i) else v &&& ~~~(1#8 <<< i)

/-- `ERROR | (1 << bit(NAME))` (R12). -/
def withError (v : Byte) (e : ErrorBit) : Byte := v ||| (1#8 <<< errorIndex e)

end Sys2Proof.Machine
end

