-- ==== Sys2Proof/Machine/Operands.lean ====
section
/-! DEFINITION. Operand forms and arithmetic: the bytes of the 16-bit position, the two bytes of a 12-bit input bitmap,
saturation, elapsed time, the quadrature value and its table. -/
namespace Sys2Proof.Machine

/-- `p[7:0]` of the position, stored at 0x60 (R46, R102). -/
def posLow (p : BitVec 16) : Byte := p.extractLsb' 0 8
/-- `p[15:8]` of the position, stored at 0x61 (R46, R102). -/
def posHigh (p : BitVec 16) : Byte := p.extractLsb' 8 8

/-- Channels 1 to 8 of a bitmap of the inputs, in the LOW byte (R26). -/
def inputsLow (m : BitVec 12) : Byte := m.extractLsb' 0 8
/-- Channels 9 to 12 of a bitmap of the inputs, in bits 0 to 3 of the HIGH byte; bits 4 to 7 are 0 (R26, R98). -/
def inputsHigh (m : BitVec 12) : Byte := (m.extractLsb' 8 4).setWidth 8

/-- `sat8(x)`: an integer clamped to the range of an i8 (R10). -/
def sat8 (x : Int) : Int := max (-128) (min 127 x)

/-- `(t - since) mod 2^32` (R97, R105, R123). -/
def elapsed (t since : Millis) : Millis := t - since

/-- `q = (A<<1)|B` (R100). -/
def quadrature (a b : Bool) : BitVec 2 := BitVec.ofBool a ++ BitVec.ofBool b

/-- `QTAB`, the transition table of R100: rows are the previous value, columns the current one. -/
def qtab : List (List Int) :=
  [[ 0, -1,  1,  0],
   [ 1,  0,  0, -1],
   [-1,  0,  0,  1],
   [ 0,  1, -1,  0]]

/-- `QTAB[prev][cur]` (R100). -/
def quadStep (prev cur : BitVec 2) : Int := (qtab.getD prev.toNat []).getD cur.toNat 0

/-- `position + d` as an i16 that wraps (R101). -/
def movePosition (p : BitVec 16) (d : Int) : BitVec 16 := BitVec.ofInt 16 (p.toInt + d)

/-- `sat8(delta_accum + d)` as an i8 (R101). -/
def moveDelta (a : BitVec 8) (d : Int) : BitVec 8 := BitVec.ofInt 8 (sat8 (a.toInt + d))

end Sys2Proof.Machine
end

