-- ==== Sys2Proof/Machine/Ops.lean ====
section
/-! DEFINITION. The named operations over the bank and the registers: reading and writing a cell, the bits of CONTROL and
STATUS, raising an error (the block's only exception, R12, R131; there is no return from one, R136), BankInit, and the
movement of one byte at the address pointer. -/
namespace Sys2Proof.Machine

/-! The register map (R17). -/

@[simp] abbrev Reg.control : RegAddr := 0x10#7
@[simp] abbrev Reg.status : RegAddr := 0x11#7
@[simp] abbrev Reg.error : RegAddr := 0x12#7
@[simp] abbrev Reg.vuLeft : RegAddr := 0x20#7
@[simp] abbrev Reg.vuRight : RegAddr := 0x21#7
@[simp] abbrev Reg.vuMode : RegAddr := 0x22#7
@[simp] abbrev Reg.backlight : RegAddr := 0x30#7
@[simp] abbrev Reg.backlightMode : RegAddr := 0x31#7
@[simp] abbrev Reg.tapeSpeed : RegAddr := 0x40#7
@[simp] abbrev Reg.tapeDirection : RegAddr := 0x41#7
@[simp] abbrev Reg.tapeMode : RegAddr := 0x42#7
@[simp] abbrev Reg.inputStatusLow : RegAddr := 0x50#7
@[simp] abbrev Reg.inputStatusHigh : RegAddr := 0x51#7
@[simp] abbrev Reg.inputChangedLow : RegAddr := 0x52#7
@[simp] abbrev Reg.inputChangedHigh : RegAddr := 0x53#7
@[simp] abbrev Reg.encoderPosLow : RegAddr := 0x60#7
@[simp] abbrev Reg.encoderPosHigh : RegAddr := 0x61#7
@[simp] abbrev Reg.encoderDelta : RegAddr := 0x62#7
@[simp] abbrev Reg.encoderButton : RegAddr := 0x63#7
@[simp] abbrev Reg.configDebounce : RegAddr := 0x71#7

/-! Memory: the bank's cells. -/

/-- What `BankInit` writes into the cell at `a` (R39), and so what a cell that is not listed reads as (log 32). -/
def bankInitByte (a : Nat) : Byte :=
  match a with
  | 0x00 => Config.deviceId
  | 0x01 => Config.fwMajor
  | 0x02 => Config.fwMinor
  | 0x03 => Config.fwPatch
  | 0x10 => 0x01#8
  | 0x11 => 0x01#8
  | 0x30 => Config.backlightDefault
  | 0x50 => 0xFF#8
  | 0x51 => 0x0F#8
  | 0x71 => Config.debounceDefaultMs
  | _ => 0x00#8

/-- The byte at an address. -/
def Memory.read (m : Memory) (a : Nat) : Byte :=
  match m with
  | [] => bankInitByte a
  | c :: rest => if c.1 = a then c.2 else Memory.read rest a

/-- A cell put into its place among cells of other addresses. -/
def Memory.insert (a : Nat) (v : Byte) (m : Memory) : Memory :=
  match m with
  | [] => [(a, v)]
  | c :: rest => if a < c.1 then (a, v) :: c :: rest else c :: Memory.insert a v rest

/-- One byte written (R11): a cell that gets its initial value is no longer listed. -/
def Memory.write (m : Memory) (a : Nat) (v : Byte) : Memory :=
  let others := m.filter (fun c => c.1 != a)
  if v = bankInitByte a then others else Memory.insert a v others

/-- The canonical form: addresses strictly rising, each one of the bank's, no entry equal to what it reads as unlisted. -/
abbrev Memory.wf (m : Memory) : Prop :=
  m.Pairwise (fun c d => c.1 < d.1) ∧ ∀ c ∈ m, c.1 < Config.bankSize ∧ c.2 ≠ bankInitByte c.1

/-- `bank[a]` (R11). -/
def State.cell (s : State) (a : RegAddr) : Byte := Memory.read s.bank a.toNat

/-- `bank[a] <- v` (R11). -/
def State.setCell (s : State) (a : RegAddr) (v : Byte) : State := { s with bank := Memory.write s.bank a.toNat v }

/-! The bitfield registers. -/

/-- `CONTROL.X` (R11, R19). -/
def State.control (s : State) (b : ControlBit) : Bool := (s.cell Reg.control).getLsbD (controlIndex b)

/-- `CONTROL.X <- 0`: an action bit self-clears (R87). -/
def State.clearControl (s : State) (b : ControlBit) : State :=
  s.setCell Reg.control (setBit (s.cell Reg.control) (controlIndex b) false)

/-- `STATUS.X` (R11, R21). -/
def State.status (s : State) (b : StatusBit) : Bool := (s.cell Reg.status).getLsbD (statusIndex b)

/-- `STATUS.X <- x` (R11). -/
def State.setStatus (s : State) (b : StatusBit) (x : Bool) : State :=
  s.setCell Reg.status (setBit (s.cell Reg.status) (statusIndex b) x)

/-- Whether an ERROR bit is set (R22). -/
def State.errorBit (s : State) (e : ErrorBit) : Bool := (s.cell Reg.error).getLsbD (errorIndex e)

/-- `raise Error(NAME)` (R12, R131): the one exception of the block. It sets the sticky bit and nothing else: it saves
nothing, changes no mode, transfers no control (R136) and does not stop the operation that raised it (R132). -/
def State.raiseError (s : State) (e : ErrorBit) : State := s.setCell Reg.error (withError (s.cell Reg.error) e)

/-- `BankInit()` (R39): every cell at its initial value, nothing outside the bank touched. -/
def State.bankInit (s : State) : State := { s with bank := [] }

/-! The endpoint's byte moves. -/

/-- The result of a bank write or a command (40_register_bank.md, R91). The endpoint discards it (R132). -/
inductive Result where
  | ok
  | err
  deriving DecidableEq, Repr

/-- `ptr <- (p + 1) mod 256`, after the byte moved with the pointer at `p` (R30, R117). -/
def State.pastAddress (s : State) (p : Byte) : State := { s with ptr := p + 1#8 }

/-- The byte a read operation at `p` returned goes out on the bus, and the pointer advances (R120). -/
def supplyByte (p : Byte) (r : Byte × State) : State :=
  { r.2 with dataOut := r.2.dataOut ++ [r.1], ptr := p + 1#8 }

/-- The result of a write operation at `p` is discarded, and the pointer advances (R118, R132). -/
def takeByte (p : Byte) (r : Result × State) : State := r.2.pastAddress p

end Sys2Proof.Machine
end

