-- ==== Sys2Proof/Machine/BankRead.lean ====
section
/-! DEFINITION. The bank's read operations (R78 to R83). Each meaning is one byte of a read transaction: the operation at
the row's address, the byte supplied, the pointer moved past the address (log 2). -/
namespace Sys2Proof.Machine

/-- R79: `return bank[a]`. -/
def readPlain (a : RegAddr) (s : State) : Byte × State := (s.cell a, s)

/-- The clear test of R80 and R81: STATUS.INPUT_CHANGED is cleared when both changed bitmaps are zero. -/
def clearInputChangedIfZero (s : State) : State :=
  if s.cell Reg.inputChangedLow = 0#8 ∧ s.cell Reg.inputChangedHigh = 0#8 then s.setStatus .inputChanged false else s

/-- R80 and R81: the changed bitmap at `a` is returned and cleared. -/
def readChanged (a : RegAddr) (s : State) : Byte × State :=
  (s.cell a, clearInputChangedIfZero (s.setCell a 0#8))

/-- R82: the delta is returned, not cleared; STATUS.ENCODER_CHANGED is cleared. -/
def readEncoderDelta (s : State) : Byte × State := (s.cell Reg.encoderDelta, s.setStatus .encoderChanged false)

/-- R83: 0xFF and INVALID_REG. -/
def readOutside (s : State) : Byte × State := (0xFF#8, s.raiseError .invalidReg)

/-- `MemRead(a, 1)`, the whole read operation (R78). -/
def memRead (p : Byte) (s : State) : Byte × State :=
  if 0x80#8 ≤ p then readOutside s
  else if p = 0x52#8 then readChanged Reg.inputChangedLow s
  else if p = 0x53#8 then readChanged Reg.inputChangedHigh s
  else if p = 0x62#8 then readEncoderDelta s
  else readPlain (cellAddr p) s

/-- BANK_RD (R79). -/
def execBankRd (a : RegAddr) (s : State) : Host.Outcome State Fault Refusal :=
  .next (supplyByte (busAddr a) (readPlain a s))

/-- BANK_RD_ICL (R80). -/
def execBankRdIcl (s : State) : Host.Outcome State Fault Refusal :=
  .next (supplyByte 0x52#8 (readChanged Reg.inputChangedLow s))

/-- BANK_RD_ICH (R81). -/
def execBankRdIch (s : State) : Host.Outcome State Fault Refusal :=
  .next (supplyByte 0x53#8 (readChanged Reg.inputChangedHigh s))

/-- BANK_RD_EDELTA (R82). -/
def execBankRdEdelta (s : State) : Host.Outcome State Fault Refusal :=
  .next (supplyByte 0x62#8 (readEncoderDelta s))

/-- BANK_RD_INVALID (R83). -/
def execBankRdInvalid (a : RegAddr) (s : State) : Host.Outcome State Fault Refusal :=
  .next (supplyByte (outsideAddr a) (readOutside s))

end Sys2Proof.Machine
end

