-- ==== Sys2Proof/Machine/Commands.lean ====
section
/-! DEFINITION. The commands (R91 to R95). A command leaves the pointer alone; the write that carries it advances it. -/
namespace Sys2Proof.Machine

/-- R92: `return ok`. -/
def commandNop (s : State) : Result × State := (.ok, s)

/-- R93: `BankInit(); return ok`. -/
def commandReset (s : State) : Result × State := (.ok, s.bankInit)

/-- R94: accepted, no effect (DESIGN CHOICE of the spec C16, log 28). -/
def commandAccepted (s : State) : Result × State := (.ok, s)

/-- R95: `raise Error(INVALID_CMD); return err`. -/
def commandInvalid (s : State) : Result × State := (.err, s.raiseError .invalidCmd)

/-- `ExecuteCommand(c)` (R91), by the codes of R71; 0x77 comes before the OPEN codes, none of which it is (R9). -/
def executeCommand (c : Byte) (s : State) : Result × State :=
  if c = Config.cmdNop then commandNop s
  else if c = Config.cmdReset then commandReset s
  else if c = Config.cmdFactoryReset ∨ c = Config.cmdCalibrateVu then commandAccepted s
  else if c = Config.cmdShownInvalid then commandInvalid s
  else if c ∈ Config.namedCommands then commandAccepted s
  else commandInvalid s

/-- CMD_NOP (R92). -/
def execCmdNop (s : State) : Host.Outcome State Fault Refusal := .next (commandNop s).2

/-- CMD_RESET (R93). -/
def execCmdReset (s : State) : Host.Outcome State Fault Refusal := .next (commandReset s).2

/-- CMD_FACTORY_RESET (R94). -/
def execCmdFactoryReset (s : State) : Host.Outcome State Fault Refusal := .next (commandAccepted s).2

/-- CMD_CALIBRATE_VU (R94). -/
def execCmdCalibrateVu (s : State) : Host.Outcome State Fault Refusal := .next (commandAccepted s).2

/-- CMD_TEST_VU_LEFT (R94). -/
def execCmdTestVuLeft (s : State) : Host.Outcome State Fault Refusal := .next (commandAccepted s).2

/-- CMD_TEST_VU_RIGHT (R94). -/
def execCmdTestVuRight (s : State) : Host.Outcome State Fault Refusal := .next (commandAccepted s).2

/-- CMD_TEST_VU_BOTH (R94). -/
def execCmdTestVuBoth (s : State) : Host.Outcome State Fault Refusal := .next (commandAccepted s).2

/-- CMD_TEST_BACKLIGHT (R94). -/
def execCmdTestBacklight (s : State) : Host.Outcome State Fault Refusal := .next (commandAccepted s).2

/-- CMD_TEST_TAPE_MOTOR (R94). -/
def execCmdTestTapeMotor (s : State) : Host.Outcome State Fault Refusal := .next (commandAccepted s).2

/-- CMD_TEST_ALL (R94). -/
def execCmdTestAll (s : State) : Host.Outcome State Fault Refusal := .next (commandAccepted s).2

/-- CMD_INVALID (R95). The byte is recorded nowhere (R133). -/
def execCmdInvalid (_c : Byte) (s : State) : Host.Outcome State Fault Refusal := .next (commandInvalid s).2

end Sys2Proof.Machine
end

