-- ==== Sys2Proof/Machine/BankWrite.lean ====
section
/-! DEFINITION. The bank's write operations (R84 to R89). Each meaning is one data byte of a write transaction: the
operation at the row's address, its result discarded, the pointer moved past the address (log 2). -/
namespace Sys2Proof.Machine

/-- R85: `bank[a] <- v; return ok`. -/
def writePlain (a : RegAddr) (v : Byte) (s : State) : Result × State := (.ok, s.setCell a v)

/-- R86 and R89: `raise Error(INVALID_REG); return err`. -/
def writeRefused (s : State) : Result × State := (.err, s.raiseError .invalidReg)

/-- The RESET_ENCODER action (R87): the private counters and the cells 0x60 to 0x62 are zeroed, the bit self-clears. -/
def actResetEncoder (s : State) : State :=
  if s.control .resetEncoder then
    let s := { s with position := 0#16, deltaAccum := 0#8 }
    let s := s.setCell Reg.encoderPosLow 0#8
    let s := s.setCell Reg.encoderPosHigh 0#8
    let s := s.setCell Reg.encoderDelta 0#8
    s.clearControl .resetEncoder
  else s

/-- The CLEAR_INPUTS action (R87): both changed bitmaps and STATUS.INPUT_CHANGED are cleared, the bit self-clears. -/
def actClearInputs (s : State) : State :=
  if s.control .clearInputs then
    let s := s.setCell Reg.inputChangedLow 0#8
    let s := s.setCell Reg.inputChangedHigh 0#8
    let s := s.setStatus .inputChanged false
    s.clearControl .clearInputs
  else s

/-- `ControlActions()` (R87). SAVE_CONFIG and LOAD_CONFIG are accepted without effect and self-clear (C17). -/
def controlActions (s : State) : State :=
  let s := actResetEncoder s
  let s := actClearInputs s
  let s := s.clearControl .saveConfig
  s.clearControl .loadConfig

/-- R87: the byte is stored, then the actions run. -/
def writeControl (v : Byte) (s : State) : Result × State := (.ok, controlActions (s.setCell Reg.control v))

/-- `MemWrite(a, 1, v)`, the whole write operation (R84). -/
def memWrite (p v : Byte) (s : State) : Result × State :=
  if p ≤ 0x03#8 then writeRefused s
  else if p = Config.cmdPort then executeCommand v s
  else if 0x80#8 ≤ p then writeRefused s
  else if p = 0x10#8 then writeControl v s
  else writePlain (cellAddr p) v s

/-- BANK_WR (R85). -/
def execBankWr (a : RegAddr) (v : Byte) (s : State) : Host.Outcome State Fault Refusal :=
  .next (takeByte (busAddr a) (writePlain a v s))

/-- BANK_WR_RO (R86). The data byte is recorded nowhere. -/
def execBankWrRo (a : BitVec 2) (_v : Byte) (s : State) : Host.Outcome State Fault Refusal :=
  .next (takeByte (a.setWidth 8) (writeRefused s))

/-- BANK_WR_CONTROL (R87). -/
def execBankWrControl (v : Byte) (s : State) : Host.Outcome State Fault Refusal :=
  .next (takeByte 0x10#8 (writeControl v s))

/-- BANK_WR_CMD (R88): no cell stores the byte. -/
def execBankWrCmd (v : Byte) (s : State) : Host.Outcome State Fault Refusal :=
  .next (takeByte Config.cmdPort (executeCommand v s))

/-- BANK_WR_INVALID (R89). The data byte is recorded nowhere. -/
def execBankWrInvalid (a : RegAddr) (_v : Byte) (s : State) : Host.Outcome State Fault Refusal :=
  .next (takeByte (outsideAddr a) (writeRefused s))

end Sys2Proof.Machine
end

