-- ==== Sys2Proof/Machine/I2cEndpoint.lean ====
section
/-! DEFINITION. The transactions of the I²C slave endpoint (R116 to R122), each one atomic step (R53). -/
namespace Sys2Proof.Machine

/-- The data bytes of a write in bus order, each at the pointer the one before it left (R118, R56). No error stops the
loop (R132). -/
def writeBytes (data : List Byte) (s : State) : State :=
  match data with
  | [] => s
  | v :: rest => writeBytes rest (takeByte s.ptr (memWrite s.ptr v s))

/-- The first `n` bytes of a read, each with its side effects, at the pointer the one before it left (R120). -/
def readBytes (n : Nat) (s : State) : State :=
  match n with
  | 0 => s
  | k + 1 => readBytes k (supplyByte s.ptr (memRead s.ptr s))

/-- The bytes of a read past the buffer: `draw u8` each, with no bank access and no pointer advance (R120, D6). -/
def drawBytes (n : Nat) (s : State) : State :=
  match n with
  | 0 => s
  | k + 1 => drawBytes k { s with dataOut := s.dataOut ++ [Config.freeByte s.draws], draws := s.draws + 1 }

/-- I2C_OVERFLOW is raised when a transaction has more than 32 data bytes (R69, R118, R120). -/
def raiseIfOverflow (n : Nat) (s : State) : State := if Config.i2cBuf < n then s.raiseError .i2cOverflow else s

/-- I2C_WRITE of REG and `data` (R118): the overflow is raised before the writes, the bytes past the 32nd are dropped. -/
def writeTransaction (reg : Byte) (data : List Byte) (s : State) : State :=
  let s := raiseIfOverflow (data.length + 1) s
  writeBytes (data.take (Config.i2cBuf - 1)) { s with ptr := reg }

/-- I2C_READ of `n` bytes (R120): 32 real bytes at most, then the overflow and the drawn bytes; `return D`. -/
def readTransaction (n : Nat) (s : State) : State :=
  let s := readBytes (min n Config.i2cBuf) { s with dataOut := [] }
  let s := drawBytes (n - Config.i2cBuf) (raiseIfOverflow n s)
  { s with returned := s.returned ++ [s.dataOut] }

/-- I2C_WRITE (R118). -/
def execI2cWrite (reg : Byte) (data : List Byte) (s : State) : Host.Outcome State Fault Refusal :=
  .next (writeTransaction reg data s)

/-- I2C_ADDR_ONLY (R119): `skip`. -/
def execI2cAddrOnly (s : State) : Host.Outcome State Fault Refusal := .next s

/-- I2C_READ (R120). A read of no byte has no step (R146, D24, log 21). -/
def execI2cRead (n : Nat) (s : State) : Host.Outcome State Fault Refusal :=
  if n = 0 then .refused .zeroLengthRead else .next (readTransaction n s)

end Sys2Proof.Machine
end

