-- ==== Sys2Proof/Machine/InputEngine.lean ====
section
/-! DEFINITION. The Input Engine (R96 to R107): debounce, encoder interrupt and publication, button classifier. -/
namespace Sys2Proof.Machine

/-! Debounce. -/

/-- `DEBOUNCE_MS`: `zext_32(bank[0x71])` (R97, R74). -/
def debounceMs (s : State) : Millis := (s.cell Reg.configDebounce).setWidth 32

/-- The commit condition of channel `i` at time `t` (R97). -/
def commits (t : Millis) (s : State) (i : Channel) : Bool :=
  s.pins.raw[i] != s.stable[i] && decide (debounceMs s ≤ elapsed t s.lastChange[i])

/-- The loop of R97: each channel that commits takes the raw level and the time. -/
def commitChannels (t : Millis) (s : State) : State :=
  { s with
    stable := BitVec.ofFnLE (fun i : Channel => if commits t s i then s.pins.raw[i] else s.stable[i])
    lastChange := Vector.ofFn (fun i : Channel => if commits t s i then t else s.lastChange[i]) }

/-- R98: the changes are ORed into INPUT_CHANGED, STATUS.INPUT_CHANGED is set if either register is then non-zero, and
the stable bitmap is published. -/
def publishInputs (changed : BitVec 12) (s : State) : State :=
  let s := s.setCell Reg.inputChangedLow (s.cell Reg.inputChangedLow ||| inputsLow changed)
  let s := s.setCell Reg.inputChangedHigh (s.cell Reg.inputChangedHigh ||| inputsHigh changed)
  let s := if s.cell Reg.inputChangedLow ≠ 0#8 ∨ s.cell Reg.inputChangedHigh ≠ 0#8
    then s.setStatus .inputChanged true else s
  let s := s.setCell Reg.inputStatusLow (inputsLow s.stable)
  s.setCell Reg.inputStatusHigh (inputsHigh s.stable)

/-- The debounce phase (R99). -/
def debouncePhase (t : Millis) (s : State) : State :=
  let committed := commitChannels t s
  publishInputs (s.stable ^^^ committed.stable) committed

/-! Encoder. -/

/-- The work of the encoder edge interrupt (R101). -/
def encoderInterrupt (s : State) : State :=
  let q := quadrature s.pins.encA s.pins.encB
  let d := quadStep s.prevQuad q
  { s with
    encIrqPending := false
    position := movePosition s.position d
    deltaAccum := moveDelta s.deltaAccum d
    prevQuad := q }

/-- ENC_EDGE (R101). It is a step only when `enc_irq_pending = 1` (R52). -/
def execEncEdge (s : State) : Host.Outcome State Fault Refusal :=
  if s.encIrqPending then .next (encoderInterrupt s) else .refused .edgeNotPending

/-- The encoder publication phase (R102). -/
def encoderPublication (s : State) : State :=
  let p := s.position
  let d := s.deltaAccum
  let s := { s with deltaAccum := 0#8 }
  let s := s.setCell Reg.encoderPosLow (posLow p)
  let s := s.setCell Reg.encoderPosHigh (posHigh p)
  let s := s.setCell Reg.encoderDelta d
  if d ≠ 0#8 then s.setStatus .encoderChanged true else s

/-! Button. -/

/-- The code of a button state (R27, R106). -/
def buttonCode (b : ButtonState) : Byte :=
  match b with
  | .released => 0#8
  | .pressed => 1#8
  | .held => 2#8
  | .doubleClick => 3#8

/-- `pressed = (btn_pin == 0)` (R104). -/
def buttonDown (s : State) : Bool := !s.pins.btn

/-- The press of R105: PRESSED, or DOUBLE_CLICK within 300 ms of the last release. -/
def buttonPress (t : Millis) (s : State) : State :=
  let s := { s with
    button := if elapsed t s.lastRelease < Config.doubleClickMs then .doubleClick else .pressed
    pressTime := t }
  s.setStatus .buttonPressed true

/-- `Release()` of R105. -/
def buttonRelease (t : Millis) (s : State) : State :=
  { s with button := .released, lastRelease := t }.setStatus .buttonPressed false

/-- The transitions of R105. -/
def classifyButton (t : Millis) (s : State) : State :=
  match s.button with
  | .released => if buttonDown s then buttonPress t s else s
  | .pressed =>
    if !buttonDown s then buttonRelease t s
    else if Config.holdMs ≤ elapsed t s.pressTime then { s with button := .held }
    else s
  | .held => if !buttonDown s then buttonRelease t s else s
  | .doubleClick => if !buttonDown s then buttonRelease t s else s

/-- The button phase (R104 to R106). -/
def buttonPhase (t : Millis) (s : State) : State :=
  let s := classifyButton t s
  s.setCell Reg.encoderButton (buttonCode s.button)

/-- `InputPhase(now)` (R107). -/
def inputPhase (t : Millis) (s : State) : State :=
  let s := debouncePhase t s
  let s := encoderPublication s
  buttonPhase t s

end Sys2Proof.Machine
end

