-- ==== Sys2Proof/Machine/OutputEngine.lean ====
section
/-! DEFINITION. The Output Engine (R108 to R115): the decision of each actuator group and the duties it drives. -/
namespace Sys2Proof.Machine

/-- OFF, the only mode value the Output Engine tests for (R108). -/
def modeOff : Byte := 0xFF#8

/-- The tape direction, decoded at the boundary: STOP and every unlisted value are one case (R108, R111). -/
inductive TapeDirection where
  | forward
  | reverse
  | brake
  | stopOrUnknown
  deriving DecidableEq, Repr

/-- R108: FORWARD = 1, REVERSE = 2, BRAKE = 3, every other value STOP or unknown. -/
def tapeDirectionOf (v : Byte) : TapeDirection :=
  if v = 1#8 then .forward else if v = 2#8 then .reverse else if v = 3#8 then .brake else .stopOrUnknown

/-- Whether a group is gated on: its own CONTROL bit set and its mode not OFF (R109 to R112). -/
def groupOn (s : State) (gate : ControlBit) (mode : RegAddr) : Bool :=
  s.control gate && s.cell mode != modeOff

/-- The VU meter group (R109). -/
def vuPhase (s : State) : State :=
  let on := groupOn s .vuEnable Reg.vuMode
  let left := if on then s.cell Reg.vuLeft else 0#8
  let right := if on then s.cell Reg.vuRight else 0#8
  let s := { s with duty := { s.duty with vuLA := left, vuLB := 0#8, vuRA := right, vuRB := 0#8 } }
  s.setStatus .vuActive on

/-- The backlight group (R110). -/
def backlightPhase (s : State) : State :=
  let on := groupOn s .backlightEnable Reg.backlightMode
  let level := if on then s.cell Reg.backlight else 0#8
  let s := { s with duty := { s.duty with blA := level, blB := 0#8 } }
  s.setStatus .backlightOn on

/-- `(a, b, run)` of the tape motor's H-bridge (R111). -/
def tapeDrive (on : Bool) (direction : TapeDirection) (speed : Byte) : Byte × Byte × Bool :=
  if on then
    match direction with
    | .forward => (speed, 0#8, true)
    | .reverse => (0#8, speed, true)
    | .brake => (255#8, 255#8, false)
    | .stopOrUnknown => (0#8, 0#8, false)
  else (0#8, 0#8, false)

/-- The tape motor group (R111). -/
def tapePhase (s : State) : State :=
  let on := groupOn s .tapeEnable Reg.tapeMode
  let drive := tapeDrive on (tapeDirectionOf (s.cell Reg.tapeDirection)) (s.cell Reg.tapeSpeed)
  let s := { s with duty := { s.duty with tapeA := drive.1, tapeB := drive.2.1 } }
  s.setStatus .tapeRunning drive.2.2

/-- `OutputPhase()` (R113). -/
def outputPhase (s : State) : State :=
  let s := vuPhase s
  let s := backlightPhase s
  tapePhase s

/-- The channels of the PWM sink (R35). -/
inductive PwmChannel where
  | vuLA
  | vuLB
  | vuRA
  | vuRB
  | blA
  | blB
  | tapeA
  | tapeB
  deriving DecidableEq, Repr

/-- `duty[ch]` (R35). -/
def dutyOf (d : Duties) (ch : PwmChannel) : Byte :=
  match ch with
  | .vuLA => d.vuLA
  | .vuLB => d.vuLB
  | .vuRA => d.vuRA
  | .vuRB => d.vuRB
  | .blA => d.blA
  | .blB => d.blB
  | .tapeA => d.tapeA
  | .tapeB => d.tapeB

/-- The level of an output at the n-th instant of a carrier period: the OPEN waveform of its duty (R115, log 19). -/
def pwmLevel (s : State) (ch : PwmChannel) (n : Nat) : Bool := Config.pwmWaveform (dutyOf s.duty ch) n

end Sys2Proof.Machine
end

