-- ==== Sys2Proof/Machine/MainTick.lean ====
section
/-! DEFINITION. The main tick (R123 to R127). -/
namespace Sys2Proof.Machine

/-- `(now - last_tick) mod 2^32 >= 10`: whether a TICK is enabled (R52, R123). -/
def tickEnabled (s : State) : Bool := decide (Config.tickMs ≤ elapsed s.now s.lastTick)

/-- The last line of TICK: `STATUS.ERROR <- (bank[0x12] != 0)` (R21, R123, R124). DEDUCED: R75 says that the block never
reads the reserved bits 5 to 7 of ERROR; the model takes the whole byte, as R124 does, so that a reserved bit the host
wrote sets STATUS.ERROR (log 37; unsafe on a chip that masks them). -/
def updateStatusError (s : State) : State := s.setStatus .error (s.cell Reg.error != 0#8)

/-- One run of the main loop body (R123). -/
def tickBody (s : State) : State :=
  let t := s.now
  let s := { s with lastTick := t }
  let s := inputPhase t s
  let s := outputPhase s
  updateStatusError s

/-- TICK (R123). It is a step only when it is enabled (R52, TK-1). -/
def execTick (s : State) : Host.Outcome State Fault Refusal :=
  if tickEnabled s then .next (tickBody s) else .refused .tickNotEnabled

end Sys2Proof.Machine
end

