-- ==== Sys2Proof/Machine/Dispatch.lean ====
section
/-! DEFINITION. exec: one arm per instruction, each one direct call of its meaning. -/
namespace Sys2Proof.Machine

def exec (i : Instr) (s : State) : Host.Outcome State Fault Refusal :=
  match i with
  | .i2cWrite reg data => Sys2Proof.Machine.execI2cWrite reg data s
  | .i2cAddrOnly => Sys2Proof.Machine.execI2cAddrOnly s
  | .i2cRead n => Sys2Proof.Machine.execI2cRead n s
  | .bankRd a => Sys2Proof.Machine.execBankRd a s
  | .bankRdIcl => Sys2Proof.Machine.execBankRdIcl s
  | .bankRdIch => Sys2Proof.Machine.execBankRdIch s
  | .bankRdEdelta => Sys2Proof.Machine.execBankRdEdelta s
  | .bankRdInvalid a => Sys2Proof.Machine.execBankRdInvalid a s
  | .bankWr a v => Sys2Proof.Machine.execBankWr a v s
  | .bankWrRo a v => Sys2Proof.Machine.execBankWrRo a v s
  | .bankWrControl v => Sys2Proof.Machine.execBankWrControl v s
  | .bankWrCmd v => Sys2Proof.Machine.execBankWrCmd v s
  | .bankWrInvalid a v => Sys2Proof.Machine.execBankWrInvalid a v s
  | .cmdNop => Sys2Proof.Machine.execCmdNop s
  | .cmdReset => Sys2Proof.Machine.execCmdReset s
  | .cmdFactoryReset => Sys2Proof.Machine.execCmdFactoryReset s
  | .cmdCalibrateVu => Sys2Proof.Machine.execCmdCalibrateVu s
  | .cmdTestVuLeft => Sys2Proof.Machine.execCmdTestVuLeft s
  | .cmdTestVuRight => Sys2Proof.Machine.execCmdTestVuRight s
  | .cmdTestVuBoth => Sys2Proof.Machine.execCmdTestVuBoth s
  | .cmdTestBacklight => Sys2Proof.Machine.execCmdTestBacklight s
  | .cmdTestTapeMotor => Sys2Proof.Machine.execCmdTestTapeMotor s
  | .cmdTestAll => Sys2Proof.Machine.execCmdTestAll s
  | .cmdInvalid c => Sys2Proof.Machine.execCmdInvalid c s
  | .tick => Sys2Proof.Machine.execTick s
  | .encEdge => Sys2Proof.Machine.execEncEdge s

end Sys2Proof.Machine
end

