-- ==== Sys2Proof/Machine/Environment.lean ====
section
/-! DEFINITION. The environment's steps (R128, R129), the choice of the next event (R52, R54) and what an event does. -/
namespace Sys2Proof.Machine

/-- Whether one more millisecond keeps within the bound of R128: `now` may not come round to `last_tick` again. -/
def withinEnvironmentBound (s : State) : Bool := s.now + 1#32 != s.lastTick

/-- ENV_TIME (R128): `now <- (now + 1) mod 2^32`. -/
def envTime (s : State) : Host.Outcome State Fault Refusal :=
  if withinEnvironmentBound s then .next { s with now := s.now + 1#32 } else .refused .beyondEnvironmentBound

/-- `read_pin(name)` (R36). -/
def readPin (p : Pins) (name : PinName) : Bool :=
  match name with
  | .input i => p.raw[i]
  | .encA => p.encA
  | .encB => p.encB
  | .btn => p.btn

/-- The pins with one driven to a level (R129). -/
def drivePin (p : Pins) (name : PinName) (level : Bool) : Pins :=
  match name with
  | .input i => { p with raw := BitVec.ofFnLE (fun j : Channel => if j = i then level else p.raw[j]) }
  | .encA => { p with encA := level }
  | .encB => { p with encB := level }
  | .btn => { p with btn := level }

/-- Whether a pin is an encoder channel, a change of which sets the pending bit (R129). -/
def isEncoderPin (name : PinName) : Bool :=
  match name with
  | .input _ => false
  | .encA => true
  | .encB => true
  | .btn => false

/-- ENV_PIN (R129). -/
def envPin (name : PinName) (level : Bool) (s : State) : State :=
  { s with
    pins := drivePin s.pins name level
    encIrqPending := s.encIrqPending || (isEncoderPin name && readPin s.pins name != level) }

/-- What a code does: the instruction it decodes to is executed; a frame addressed elsewhere has no effect (R43, R116);
a frame that is none, or a read of no byte, has no step (R146). -/
def runCode (c : Code) (s : State) : Host.Outcome State Fault Refusal :=
  match decode c with
  | .ok i => exec i s
  | .error (.otherAddress _) => .next s
  | .error .zeroLengthRead => .refused .zeroLengthRead
  | .error .noAddressByte => .refused .noAddressByte

/-- What an event does. -/
def runEvent (e : Event) (s : State) : Host.Outcome State Fault Refusal :=
  match e with
  | .code c => runCode c s
  | .envTime => envTime s
  | .envPin p v => .next (envPin p v s)
  | .broken k => .refused (.belowTransaction k)

/-- Whether a code is a step of R52 that may be taken now: a frame the model has a step for, an enabled TICK or
ENC_EDGE. A per-byte operation or a command is part of a transaction's step, never a step of its own (R53). -/
def codeEnabled (c : Code) (s : State) : Bool :=
  match c with
  | .frame bytes =>
    match decodeFrame bytes with
    | .ok _ => true
    | .error (.otherAddress _) => true
    | .error .zeroLengthRead => false
    | .error .noAddressByte => false
  | .readAt _ => false
  | .writeAt _ _ => false
  | .command _ => false
  | .tick => tickEnabled s
  | .encEdge => s.encIrqPending

/-- Whether an event is an enabled step of one of the agents of R52. -/
def eventEnabled (e : Event) (s : State) : Bool :=
  match e with
  | .code c => codeEnabled c s
  | .envTime => withinEnvironmentBound s
  | .envPin _ _ => true
  | .broken _ => false

/-- An enabled event where the freely chosen one is not: the clock advances, or, at its bound, the TICK that is then
enabled runs. -/
def fallbackEvent (s : State) : Event := if withinEnvironmentBound s then .envTime else .code .tick

/-- A free choice among the enabled events (R54, log 1). -/
def freeChoice (s : State) : Event :=
  let e := Config.freeEvent s.picks
  if eventEnabled e s then e else fallbackEvent s

/-- The event the next step takes: the first pending one, or a free choice. -/
def nextEvent (s : State) : Event :=
  match s.pending with
  | [] => freeChoice s
  | e :: _ => e

/-- The state once the next event is taken from the pending ones, or chosen. -/
def afterFetch (s : State) : State :=
  match s.pending with
  | [] => { s with picks := s.picks + 1 }
  | _ :: rest => { s with pending := rest }

/-- A code placed where the next step takes it from. -/
def placeCode (c : Code) (s : State) : State := { s with pending := .code c :: s.pending }

end Sys2Proof.Machine
end

