-- ==== Sys2Proof/Machine/Step.lean ====
section
/-! DEFINITION. One step: the next event is taken and run. -/
namespace Sys2Proof.Machine

/-- One atomic step of one agent (R52, R53). -/
def step (s : State) : Host.Outcome State Fault Refusal := runEvent (nextEvent s) (afterFetch s)

/-- `s` with the instruction that a word of the opcode table stands for placed first among the pending events, where
`step` takes its next instruction from (log 1, log 34). -/
def State.withFetchWord (s : State) (nbits w : Nat) : State := placeCode (tableCode nbits w) s

end Sys2Proof.Machine
end

