-- ==== Sys2Proof/Safety.lean ====
section
/-! DEFINITION. The terms claims use: frames, runs of the per-byte operations of a transaction, executions and their
fairness (R54, R152), and the invariant that every step keeps. -/
namespace Sys2Proof.Safety

open Sys2Proof.Machine

/-- The frame of an operation on the bank: nothing but cells changed, and no cell but those named. -/
def OnlyCells (s t : State) (touched : List RegAddr) : Prop :=
  t = { s with bank := t.bank } ∧ ∀ a, a ∉ touched → t.cell a = s.cell a

/-! Transactions as runs of the per-byte instructions their pointer selects (R8, R70). -/

/-- The write operations of a write frame, one after another, each selected by the pointer it finds. -/
def runWrites (data : List Byte) (s : State) : Host.Outcome State Fault Refusal :=
  match data with
  | [] => .next s
  | v :: rest =>
    match exec (decodeWrite s.ptr v) s with
    | .next t => runWrites rest t
    | .fault f => .fault f
    | .refused r => .refused r

/-- `n` read operations, one after another, each selected by the pointer it finds. -/
def runReads (n : Nat) (s : State) : Host.Outcome State Fault Refusal :=
  match n with
  | 0 => .next s
  | k + 1 =>
    match exec (decodeRead s.ptr) s with
    | .next t => runReads k t
    | .fault f => .fault f
    | .refused r => .refused r

/-- The write frame REG, `data` moves the byte `v` at address `p`: one of the 31 bytes after REG that the endpoint
honours lands there (R118). -/
def Moves (reg : Byte) (data : List Byte) (p v : Byte) : Prop :=
  ∃ k, k < 31 ∧ data[k]? = some v ∧ reg + BitVec.ofNat 8 k = p

/-- An instruction that writes the cell at `a` with a byte of the host's. -/
def HostWrites (i : Instr) (a : RegAddr) : Prop :=
  match i with
  | .bankWr b _ => b = a
  | .i2cWrite reg data => ∃ v, Moves reg data (busAddr a) v
  | _ => False

/-- An instruction that runs the command RESET. -/
def RunsReset (i : Instr) : Prop :=
  match i with
  | .cmdReset => True
  | .bankWrCmd v => v = 0x01#8
  | .i2cWrite reg data => Moves reg data 0xF0#8 0x01#8
  | _ => False

/-! The encoder turned through a sequence of levels, one interrupt for each (R101, R103). -/

/-- The encoder's pins at the levels `ab`, with an interrupt pending. -/
def atLevels (ab : Bool × Bool) (s : State) : State :=
  { s with pins := { s.pins with encA := ab.1, encB := ab.2 }, encIrqPending := true }

/-- One ENC_EDGE for each pair of levels. -/
def runEdges (levels : List (Bool × Bool)) (s : State) : Host.Outcome State Fault Refusal :=
  match levels with
  | [] => .next s
  | ab :: rest =>
    match exec .encEdge (atLevels ab s) with
    | .next t => runEdges rest t
    | .fault f => .fault f
    | .refused r => .refused r

/-- The displacement of a sequence of levels from the quadrature value `q`, by the table of R100. -/
def displacement (q : BitVec 2) (levels : List (Bool × Bool)) : Int :=
  match levels with
  | [] => 0
  | ab :: rest => quadStep q (quadrature ab.1 ab.2) + displacement (quadrature ab.1 ab.2) rest

/-! Executions (R52, R54, R152). -/

/-- One enabled step of one of the agents of R52. -/
def SpecStep (s t : State) : Prop := ∃ e, eventEnabled e s = true ∧ runEvent e s = .next t

/-- An infinite execution (R54). -/
def Execution (run : Nat → State) : Prop := ∀ n, SpecStep (run n) (run (n + 1))

/-- A TICK or an ENC_EDGE that stays enabled is eventually taken (R54). -/
def WeaklyFair (run : Nat → State) : Prop :=
  ∀ c, c = Code.tick ∨ c = Code.encEdge → ∀ n, (∀ m, n ≤ m → codeEnabled c (run m) = true) →
    ∃ m, n ≤ m ∧ runCode c (run m) = .next (run (m + 1))

/-- A run is quiescent: no interrupt is pending and no TICK is enabled (R152). -/
def Quiescent (s : State) : Prop := s.encIrqPending = false ∧ tickEnabled s = false

/-! Invariants. -/

/-- The identity cells hold their constants (R18). -/
def IdentityHolds (s : State) : Prop :=
  s.cell 0x00#7 = 0x52#8 ∧ s.cell 0x01#7 = 0x01#8 ∧ s.cell 0x02#7 = 0x00#8 ∧ s.cell 0x03#7 = 0x00#8

/-- The action bits 1, 2, 6 and 7 of CONTROL read 0 (R19, R87). -/
def ActionBitsClear (s : State) : Prop := s.cell 0x10#7 &&& 0xC6#8 = 0x00#8

/-- What holds between any two steps: the bank has its canonical form, the identity cells their constants, and the
action bits of CONTROL are clear. -/
def MachineInv (s : State) : Prop := Memory.wf s.bank ∧ IdentityHolds s ∧ ActionBitsClear s

/-- STATUS.INPUT_CHANGED is set exactly when either changed bitmap is non-zero (R26). -/
def InputChangedAgrees (s : State) : Prop :=
  s.status .inputChanged = true ↔ s.cell 0x52#7 ≠ 0x00#8 ∨ s.cell 0x53#7 ≠ 0x00#8

/-- STATUS.BUTTON_PRESSED is set exactly in the states PRESSED, HELD and DOUBLE_CLICK (R21, C15). -/
def ButtonBitAgrees (s : State) : Prop := s.status .buttonPressed = true ↔ s.button ≠ .released

/-- Bits 4 to 7 of INPUT_STATUS_HIGH are 0 (R26, C18). -/
def InputHighBitsClear (s : State) : Prop := s.cell 0x51#7 &&& 0xF0#8 = 0x00#8

end Sys2Proof.Safety
end

