-- ==== Sys2Proof/Certificates/Slice0/Obligations.lean ====
section
/-! DEFINITION. The statements for the provers. -/

open Sys2Proof Sys2Proof.Machine Sys2Proof.Safety

/-! ## Encoding -/

/-- Decoding the code of a well-formed instruction gives it back, with every operand at every value (R66 to R71; D7, D8
and the address byte's layout are the spec's own, logs 7, 8 and 31). -/
def Obligations.DecodeEncodeRoundTrip : Prop :=
  ∀ i : Instr, i.wellFormed = true → decode (encode i) = .ok i

/-- A code that decodes is the code of the well-formed instruction it decodes to, but for the slots of a read frame,
which the slave fills and of which only the number counts (R68). -/
def Obligations.DecodedCodeIsEncoding : Prop :=
  ∀ (c : Code) (i : Instr), decode c = .ok i →
    i.wellFormed = true ∧
    (encode i = c ∨ ∃ slots : List Byte, i = .i2cRead slots.length ∧ c = .frame (0x85#8 :: slots))

/-- R70: of the rows that match a pointer value, the one with the most 1-bits in its mask is the operation decoded, and
no two rows of one table with equal masks overlap. -/
def Obligations.PointerSelectsMostSpecificRow : Prop :=
  (∀ p v : Byte, mostSpecific readRows p = tableRow (decodeRead p) ∧
    mostSpecific writeRows p = tableRow (decodeWrite p v)) ∧
  (∀ rows, rows = readRows ∨ rows = writeRows → ∀ r ∈ rows, ∀ q ∈ rows, r ≠ q → r.mask = q.mask →
    ∀ p, ¬ (rowMatches r p = true ∧ rowMatches q p = true))

/-- R71 with D7 and D8 (the spec's own choices, logs 7 and 8): the fixed codes, the six OPEN codes, whatever their
values, and every other byte, 0x77 among them. -/
def Obligations.CommandByteSelectsCommand : Prop :=
  decodeCommand 0x00#8 = .cmdNop ∧ decodeCommand 0x01#8 = .cmdReset ∧ decodeCommand 0x02#8 = .cmdFactoryReset ∧
  decodeCommand 0x10#8 = .cmdCalibrateVu ∧ decodeCommand 0x77#8 = .cmdInvalid 0x77#8 ∧
  decodeCommand Config.cmdTestVuLeft = .cmdTestVuLeft ∧ decodeCommand Config.cmdTestVuRight = .cmdTestVuRight ∧
  decodeCommand Config.cmdTestVuBoth = .cmdTestVuBoth ∧ decodeCommand Config.cmdTestBacklight = .cmdTestBacklight ∧
  decodeCommand Config.cmdTestTapeMotor = .cmdTestTapeMotor ∧ decodeCommand Config.cmdTestAll = .cmdTestAll ∧
  Config.namedCommands.Nodup ∧ 0x77#8 ∉ Config.namedCommands ∧
  ∀ c, c ∉ Config.namedCommands → decodeCommand c = .cmdInvalid c

/-- A few codes written out from the spec's frames and tables (95_test_vectors.md; R66 to R71). -/
def Obligations.SampleCodesDecode : Prop :=
  decode (.frame [0x84#8, 0x10#8, 0x09#8]) = .ok (.i2cWrite 0x10#8 [0x09#8]) ∧
  decode (.frame [0x84#8]) = .ok .i2cAddrOnly ∧
  decode (.frame [0x85#8, 0x00#8, 0x00#8]) = .ok (.i2cRead 2) ∧
  decode (.readAt 0x20#8) = .ok (.bankRd 0x20#7) ∧ decode (.readAt 0x52#8) = .ok .bankRdIcl ∧
  decode (.readAt 0xF0#8) = .ok (.bankRdInvalid 0x70#7) ∧
  decode (.writeAt 0x03#8 0x99#8) = .ok (.bankWrRo 3#2 0x99#8) ∧
  decode (.writeAt 0xF0#8 0x77#8) = .ok (.bankWrCmd 0x77#8) ∧
  decode (.command 0x01#8) = .ok .cmdReset

/-! ## Steps -/

/-- When the first pending event is a code that decodes to a well-formed instruction, the step is that instruction's
execution, the event being taken from the pending ones (the pending events are the model's form, log 1). -/
def Obligations.StepRunsDecodedInstruction : Prop :=
  ∀ (s : State) (c : Code) (rest : List Event) (i : Instr),
    s.pending = .code c :: rest → decode c = .ok i → i.wellFormed = true →
    step s = exec i { s with pending := rest }

/-- A frame addressed to another slave, the general call included, has no effect on the block (R43, R116, D18). -/
def Obligations.FrameElsewhereHasNoEffect : Prop :=
  ∀ (s : State) (b : Byte) (data : List Byte) (rest : List Event),
    s.pending = .code (.frame (b :: data)) :: rest → b ≠ 0x84#8 → b ≠ 0x85#8 →
    step s = .next { s with pending := rest }

/-- No enabled event is refused; and no state lacks a successor: with nothing pending the step is an enabled step of
one of the agents, whichever the free choice names (R54, R146; the pending events and the
choice are the model's form, log 1). -/
def Obligations.EnabledStepsAreTaken : Prop :=
  (∀ (s : State) (e : Event) (rest : List Event), s.pending = e :: rest → eventEnabled e s = true →
    ∃ t, step s = .next t) ∧
  (∀ s : State, s.pending = [] → ∃ t, step s = .next t ∧ SpecStep { s with picks := s.picks + 1 } t)

/-- Five kinds of step are refused, each under its own name (R52, R146; the clock's bound R128): a read of no byte, a bus
event below the transaction level, a TICK or an ENC_EDGE that is not enabled, and the millisecond past the environment's
bound (D12, D13, D18 and D24, logs 12, 13, 18 and 21). They are not all the steps that no execution has: a bare per-byte
or command code is one too (R53) and runs (log 2), and the frame without an address byte (log 18) is not in this list. -/
def Obligations.FiveKindsOfStepAreRefused : Prop :=
  ∀ s : State,
    exec (.i2cRead 0) s = .refused .zeroLengthRead ∧
    (∀ k, runEvent (.broken k) s = .refused (.belowTransaction k)) ∧
    (s.now - s.lastTick < 10#32 → exec .tick s = .refused .tickNotEnabled) ∧
    (s.encIrqPending = false → exec .encEdge s = .refused .edgeNotPending) ∧
    (s.now + 1#32 = s.lastTick → runEvent .envTime s = .refused .beyondEnvironmentBound)

/-- Every step keeps the invariant: the bank's canonical form (log 32), the identity cells (R18: "Constant after
reset") and the clear action bits of CONTROL (R19; that SAVE_CONFIG and LOAD_CONFIG only self-clear, and that no
accepted command writes a cell, are the spec's choices C17 and C16, log 28). -/
def Obligations.StepKeepsInvariant : Prop :=
  ∀ s t : State, MachineInv s → step s = .next t → MachineInv t

/-- The invariant holds right after power-up. -/
def Obligations.ResetMeetsInvariant : Prop := MachineInv State.reset

/-- The state PowerOn gives (R148): the bank's initial values, and the spec's own choices of R40 (D4, D10; logs 4 and
10) for the rest. -/
def Obligations.PowerOnValues : Prop :=
  (∀ a : RegAddr, State.reset.cell a =
    if a = 0x00#7 then 0x52#8 else if a = 0x01#7 ∨ a = 0x10#7 ∨ a = 0x11#7 then 0x01#8
    else if a = 0x30#7 then 0x80#8 else if a = 0x50#7 then 0xFF#8 else if a = 0x51#7 then 0x0F#8
    else if a = 0x71#7 then 0x32#8 else 0x00#8) ∧
  State.reset.ptr = 0x00#8 ∧ State.reset.stable = 0xFFF#12 ∧
  (∀ i : Channel, State.reset.lastChange[i] = 0#32) ∧
  State.reset.position = 0#16 ∧ State.reset.deltaAccum = 0#8 ∧ State.reset.encIrqPending = false ∧
  State.reset.button = .released ∧ State.reset.pressTime = 0#32 ∧ State.reset.lastRelease = 0#32 ∧
  State.reset.now = 0#32 ∧ State.reset.lastTick = 0#32 ∧ (∀ ch, dutyOf State.reset.duty ch = 0#8)

/-! ## Bank reads -/

/-- R78, the whole read operation: its value, what it clears and raises, and that it changes nothing else. -/
def Obligations.MemReadFollowsItsCases : Prop :=
  ∀ (p : Byte) (s : State),
    (0x80#8 ≤ p → (memRead p s).1 = 0xFF#8 ∧ OnlyCells s (memRead p s).2 [0x12#7] ∧
      (memRead p s).2.cell 0x12#7 = s.cell 0x12#7 ||| 0x02#8) ∧
    (p < 0x80#8 → (memRead p s).1 = s.cell (p.setWidth 7)) ∧
    (p = 0x52#8 → OnlyCells s (memRead p s).2 [0x11#7, 0x52#7] ∧ (memRead p s).2.cell 0x52#7 = 0x00#8 ∧
      (memRead p s).2.cell 0x11#7 = if s.cell 0x53#7 = 0x00#8 then s.cell 0x11#7 &&& 0xDF#8 else s.cell 0x11#7) ∧
    (p = 0x53#8 → OnlyCells s (memRead p s).2 [0x11#7, 0x53#7] ∧ (memRead p s).2.cell 0x53#7 = 0x00#8 ∧
      (memRead p s).2.cell 0x11#7 = if s.cell 0x52#7 = 0x00#8 then s.cell 0x11#7 &&& 0xDF#8 else s.cell 0x11#7) ∧
    (p = 0x62#8 → OnlyCells s (memRead p s).2 [0x11#7] ∧
      (memRead p s).2.cell 0x11#7 = s.cell 0x11#7 &&& 0xBF#8) ∧
    (p < 0x80#8 → p ≠ 0x52#8 → p ≠ 0x53#8 → p ≠ 0x62#8 → (memRead p s).2 = s)

/-- BANK_RD completes (40_register_bank.md section 1): the stored byte goes out, the pointer moves past it (logs 2 and
33), nothing else changes. -/
def Obligations.BankReadCompletes : Prop :=
  ∀ (a : RegAddr) (s : State), (Instr.bankRd a).wellFormed = true →
    exec (.bankRd a) s = .next { s with dataOut := s.dataOut ++ [s.cell a], ptr := a.setWidth 8 + 1#8 }

/-- BANK_RD_ICL and BANK_RD_ICH complete: the changed bitmap goes out and is cleared, STATUS.INPUT_CHANGED is cleared
when the other bitmap is zero too, the pointer moves on, nothing else changes (logs 2 and 33). -/
def Obligations.ChangedBitmapReadsComplete : Prop :=
  ∀ s : State,
    (∃ t, exec .bankRdIcl s = .next t ∧
      OnlyCells { s with dataOut := s.dataOut ++ [s.cell 0x52#7], ptr := 0x53#8 } t [0x11#7, 0x52#7] ∧
      t.cell 0x52#7 = 0x00#8 ∧
      t.cell 0x11#7 = if s.cell 0x53#7 = 0x00#8 then s.cell 0x11#7 &&& 0xDF#8 else s.cell 0x11#7) ∧
    (∃ t, exec .bankRdIch s = .next t ∧
      OnlyCells { s with dataOut := s.dataOut ++ [s.cell 0x53#7], ptr := 0x54#8 } t [0x11#7, 0x53#7] ∧
      t.cell 0x53#7 = 0x00#8 ∧
      t.cell 0x11#7 = if s.cell 0x52#7 = 0x00#8 then s.cell 0x11#7 &&& 0xDF#8 else s.cell 0x11#7)

/-- BANK_RD_EDELTA completes: the delta goes out and is kept, STATUS.ENCODER_CHANGED is cleared, the pointer moves on,
nothing else changes (logs 2 and 33). -/
def Obligations.DeltaReadCompletes : Prop :=
  ∀ s : State, ∃ t, exec .bankRdEdelta s = .next t ∧
    OnlyCells { s with dataOut := s.dataOut ++ [s.cell 0x62#7], ptr := 0x63#8 } t [0x11#7] ∧
    t.cell 0x11#7 = s.cell 0x11#7 &&& 0xBF#8

/-- BANK_RD_INVALID completes at every address from 0x80 on, 0xF0 included: 0xFF goes out, ERROR.INVALID_REG is set,
the pointer moves on and wraps, nothing else changes (logs 2 and 33). -/
def Obligations.OutsideReadCompletes : Prop :=
  ∀ (a : RegAddr) (s : State), ∃ t, exec (.bankRdInvalid a) s = .next t ∧
    OnlyCells { s with dataOut := s.dataOut ++ [0xFF#8], ptr := 0x80#8 + a.setWidth 8 + 1#8 } t [0x12#7] ∧
    t.cell 0x12#7 = s.cell 0x12#7 ||| 0x02#8

/-! ## Bank writes -/

/-- R84, the whole write operation: what it stores, refuses, raises and answers, and that it changes nothing else. The
command port and CONTROL go on to R91 and R87. -/
def Obligations.MemWriteFollowsItsCases : Prop :=
  ∀ (p v : Byte) (s : State),
    (p ≤ 0x03#8 ∨ (0x80#8 ≤ p ∧ p ≠ 0xF0#8) → (memWrite p v s).1 = .err ∧ OnlyCells s (memWrite p v s).2 [0x12#7] ∧
      (memWrite p v s).2.cell 0x12#7 = s.cell 0x12#7 ||| 0x02#8) ∧
    (p = 0xF0#8 → memWrite p v s = executeCommand v s) ∧
    (p = 0x10#8 → memWrite p v s = (.ok, controlActions (s.setCell 0x10#7 v))) ∧
    (0x04#8 ≤ p → p < 0x80#8 → p ≠ 0x10#8 → (memWrite p v s).1 = .ok ∧
      OnlyCells s (memWrite p v s).2 [p.setWidth 7] ∧ (memWrite p v s).2.cell (p.setWidth 7) = v)

/-- BANK_WR completes: the byte is stored, STATUS, ERROR and the reserved cells included (C3, C4), the pointer moves on
(log 2), nothing else changes. -/
def Obligations.BankWriteCompletes : Prop :=
  ∀ (a : RegAddr) (v : Byte) (s : State), (Instr.bankWr a v).wellFormed = true →
    ∃ t, exec (.bankWr a v) s = .next t ∧ OnlyCells { s with ptr := a.setWidth 8 + 1#8 } t [a] ∧ t.cell a = v

/-- BANK_WR_RO and BANK_WR_INVALID complete: nothing is stored, ERROR.INVALID_REG is set, the pointer moves on and
wraps (log 2), nothing else changes. -/
def Obligations.RefusedWritesComplete : Prop :=
  ∀ (v : Byte) (s : State),
    (∀ a : BitVec 2, ∃ t, exec (.bankWrRo a v) s = .next t ∧
      OnlyCells { s with ptr := a.setWidth 8 + 1#8 } t [0x12#7] ∧ t.cell 0x12#7 = s.cell 0x12#7 ||| 0x02#8) ∧
    (∀ a : RegAddr, a ≠ 0x70#7 → ∃ t, exec (.bankWrInvalid a v) s = .next t ∧
      OnlyCells { s with ptr := 0x80#8 + a.setWidth 8 + 1#8 } t [0x12#7] ∧
      t.cell 0x12#7 = s.cell 0x12#7 ||| 0x02#8)

/-- BANK_WR_CONTROL completes (40_register_bank.md section 2; D16 and C17, logs 16 and 28): CONTROL holds the byte
without its action bits;
RESET_ENCODER zeroes the private counters and 0x60 to 0x62; CLEAR_INPUTS zeroes 0x52 and 0x53 and clears
STATUS.INPUT_CHANGED; nothing else changes but the pointer (log 2). -/
def Obligations.ControlWriteCompletes : Prop :=
  ∀ (v : Byte) (s : State), ∃ t, exec (.bankWrControl v) s = .next t ∧
    t = { s with bank := t.bank, ptr := 0x11#8, position := t.position, deltaAccum := t.deltaAccum } ∧
    (∀ a, a ∉ [0x10#7, 0x11#7, 0x52#7, 0x53#7, 0x60#7, 0x61#7, 0x62#7] → t.cell a = s.cell a) ∧
    t.cell 0x10#7 = v &&& 0x39#8 ∧
    (v.getLsbD 1 = true → t.position = 0#16 ∧ t.deltaAccum = 0#8 ∧
      ∀ a, a ∈ [0x60#7, 0x61#7, 0x62#7] → t.cell a = 0x00#8) ∧
    (v.getLsbD 1 = false → t.position = s.position ∧ t.deltaAccum = s.deltaAccum ∧
      ∀ a, a ∈ [0x60#7, 0x61#7, 0x62#7] → t.cell a = s.cell a) ∧
    (v.getLsbD 2 = true → t.cell 0x11#7 = s.cell 0x11#7 &&& 0xDF#8 ∧
      ∀ a, a ∈ [0x52#7, 0x53#7] → t.cell a = 0x00#8) ∧
    (v.getLsbD 2 = false → ∀ a, a ∈ [0x11#7, 0x52#7, 0x53#7] → t.cell a = s.cell a)

/-- BANK_WR_CMD completes: the command the byte names is executed, then the pointer stands at 0xF1 (log 2). -/
def Obligations.CommandWriteRunsCommand : Prop :=
  ∀ (v : Byte) (s : State), ∃ t, exec (decodeCommand v) s = .next t ∧
    exec (.bankWrCmd v) s = .next { t with ptr := 0xF1#8 }

/-! ## Commands -/

/-- CMD_NOP, CMD_FACTORY_RESET, CMD_CALIBRATE_VU and the six CMD_TEST_* are accepted and change nothing (R92, R94; D7,
D8 and C16 are the spec's own choices, logs 7, 8 and 28). -/
def Obligations.AcceptedCommandsChangeNothing : Prop :=
  ∀ s : State, ∀ i ∈ [Instr.cmdNop, .cmdFactoryReset, .cmdCalibrateVu, .cmdTestVuLeft, .cmdTestVuRight,
    .cmdTestVuBoth, .cmdTestBacklight, .cmdTestTapeMotor, .cmdTestAll], exec i s = .next s

/-- CMD_RESET completes: every cell takes its initial value, nothing outside the bank changes (D9, log 9), and a second
reset changes nothing more. -/
def Obligations.SoftResetCompletes : Prop :=
  ∀ s : State, ∃ t, exec .cmdReset s = .next t ∧ t = { s with bank := State.reset.bank } ∧
    t.cell 0x00#7 = 0x52#8 ∧ t.cell 0x01#7 = 0x01#8 ∧ t.cell 0x10#7 = 0x01#8 ∧ t.cell 0x11#7 = 0x01#8 ∧
    t.cell 0x30#7 = 0x80#8 ∧ t.cell 0x50#7 = 0xFF#8 ∧ t.cell 0x51#7 = 0x0F#8 ∧ t.cell 0x71#7 = 0x32#8 ∧
    (∀ a, a ∉ [0x00#7, 0x01#7, 0x10#7, 0x11#7, 0x30#7, 0x50#7, 0x51#7, 0x71#7] → t.cell a = 0x00#8) ∧
    exec .cmdReset t = .next t

/-- R95: CMD_INVALID sets ERROR.INVALID_CMD and changes nothing else; a second one changes nothing further; every byte
that names no command decodes to it (which bytes those are rests on D7 and D8, logs 7 and 8). -/
def Obligations.InvalidCommandCompletes : Prop :=
  ∀ (c : Byte) (s : State), c ∉ Config.namedCommands →
    decode (.command c) = .ok (.cmdInvalid c) ∧
    (∀ u, executeCommand c u = (.err, u.raiseError .invalidCmd)) ∧
    ∃ t, exec (.cmdInvalid c) s = .next t ∧ OnlyCells s t [0x12#7] ∧ t.cell 0x12#7 = s.cell 0x12#7 ||| 0x04#8 ∧
      ∃ u, exec (.cmdInvalid c) t = .next u ∧ OnlyCells t u []

/-! ## Transactions -/

/-- R119: a write frame with no data byte is ignored. -/
def Obligations.AddressOnlyFrameIsIgnored : Prop :=
  decode (.frame [0x84#8]) = .ok .i2cAddrOnly ∧ ∀ s : State, exec .i2cAddrOnly s = .next s

/-- I2C_WRITE of at most 32 data bytes completes and is the run of the write operations its pointer selects, in bus
order, after REG has set the pointer (44_i2c_endpoint.md section 2; D5, log 5; log 2 for the operations' form). -/
def Obligations.WriteFrameRunsItsBytes : Prop :=
  ∀ (reg : Byte) (data : List Byte) (s : State), data.length ≤ 31 →
    ∃ t, exec (.i2cWrite reg data) s = .next t ∧ runWrites data { s with ptr := reg } = .next t ∧
      t.ptr = reg + BitVec.ofNat 8 data.length

/-- I2C_WRITE of more than 32 data bytes completes: I2C_OVERFLOW is raised first, then REG and the next 31 bytes are
processed, and the rest dropped (D5, log 5). -/
def Obligations.LongWriteFrameOverflows : Prop :=
  ∀ (reg : Byte) (data : List Byte) (s : State), 31 < data.length →
    ∃ t, exec (.i2cWrite reg data) s = .next t ∧
      runWrites (data.take 31) { s.setCell 0x12#7 (s.cell 0x12#7 ||| 0x01#8) with ptr := reg } = .next t ∧
      t.ptr = reg + 31#8

/-- The frame of I2C_WRITE: a write frame that reaches neither CONTROL nor the command port changes no cell but those
its bytes land on and ERROR, and nothing outside the bank but the pointer. The frame may have any length: only the 31
bytes after REG land (`Moves`), the spec's own choice D5 (log 5). Frames that reach 0x10 or 0xF0 are the run of their
write operations (WriteFrameRunsItsBytes, LongWriteFrameOverflows). -/
def Obligations.WriteFrameTouchesItsCells : Prop :=
  ∀ (reg : Byte) (data : List Byte) (s : State),
    (∀ v, ¬ Moves reg data 0x10#8 v) → (∀ v, ¬ Moves reg data 0xF0#8 v) →
    ∃ t, exec (.i2cWrite reg data) s = .next t ∧ t = { s with bank := t.bank, ptr := t.ptr } ∧
      ∀ a, a ≠ 0x12#7 → (∀ v, ¬ Moves reg data (a.setWidth 8) v) → t.cell a = s.cell a

/-- I2C_READ of 1 to 32 bytes completes and is the run of the read operations its pointer selects, in order; the bytes
they supply are returned (44_i2c_endpoint.md section 2; log 33). -/
def Obligations.ReadFrameRunsItsBytes : Prop :=
  ∀ (n : Nat) (s : State), 1 ≤ n → n ≤ 32 →
    ∃ t, runReads n { s with dataOut := [] } = .next t ∧ t.dataOut.length = n ∧
      t.ptr = s.ptr + BitVec.ofNat 8 n ∧
      exec (.i2cRead n) s = .next { t with returned := s.returned ++ [t.dataOut] }

/-- I2C_READ of more than 32 bytes completes: the first 32 are real reads, then I2C_OVERFLOW is raised and every later
byte is a free value, with no bank access and no pointer advance (D6, log 6; it holds for every value of the draws). -/
def Obligations.LongReadFrameOverflows : Prop :=
  ∀ (n : Nat) (s : State), 32 < n →
    ∃ t u, runReads 32 { s with dataOut := [] } = .next t ∧ exec (.i2cRead n) s = .next u ∧
      u.dataOut = t.dataOut ++ (List.range (n - 32)).map (fun k => Config.freeByte (s.draws + k)) ∧
      u.cell 0x12#7 = t.cell 0x12#7 ||| 0x01#8 ∧ u.ptr = s.ptr + 32#8 ∧
      u = { t with bank := u.bank, dataOut := u.dataOut, returned := s.returned ++ [u.dataOut],
                   draws := s.draws + (n - 32) } ∧
      ∀ a, a ≠ 0x12#7 → u.cell a = t.cell a

/-- The frame of I2C_READ: a read changes no cell but STATUS, ERROR and the two changed bitmaps, and nothing outside the
bank but the pointer, the bytes it returns and the counter of drawn bytes (D6, log 6, past the 32nd byte; log 33). -/
def Obligations.ReadFrameTouchesFlagsOnly : Prop :=
  ∀ (n : Nat) (s : State), 1 ≤ n →
    ∃ t, exec (.i2cRead n) s = .next t ∧
      t = { s with bank := t.bank, ptr := t.ptr, dataOut := t.dataOut, returned := s.returned ++ [t.dataOut],
                   draws := t.draws } ∧
      t.dataOut.length = n ∧
      ∀ a, a ∉ [0x11#7, 0x12#7, 0x52#7, 0x53#7] → t.cell a = s.cell a

/-- The block round trip (44_i2c_endpoint.md section 3): what one write frame stores in plain cells, a pointer write and
a read of as many bytes return. The reserved cells are among them: that they are plain storage and read back is the
spec's own choice C3 (I3, log 29), and a chip may hardwire them to 0. The bound of 31 bytes is D5 (log 5). -/
def Obligations.WrittenBlockReadsBack : Prop :=
  ∀ (a : Nat) (data : List Byte) (s : State),
    0x04 ≤ a → 1 ≤ data.length → data.length ≤ 31 → a + data.length ≤ 0x80 →
    (∀ x ∈ [0x10, 0x11, 0x12, 0x50, 0x51, 0x52, 0x53, 0x60, 0x61, 0x62, 0x63], x < a ∨ a + data.length ≤ x) →
    ∃ t u w, exec (.i2cWrite (BitVec.ofNat 8 a) data) s = .next t ∧
      exec (.i2cWrite (BitVec.ofNat 8 a) []) t = .next u ∧
      exec (.i2cRead data.length) u = .next w ∧ w.dataOut = data

/-- The identity read (95_test_vectors.md section 1.1) in every state that keeps the identity cells: a pointer write of
0x00 and a read of four bytes return 52 01 00 00 and leave the pointer at 0x04. -/
def Obligations.IdentityReadsBack : Prop :=
  ∀ s : State, IdentityHolds s →
    ∃ t u, exec (.i2cWrite 0x00#8 []) s = .next t ∧ exec (.i2cRead 4) t = .next u ∧
      u.dataOut = [0x52#8, 0x01#8, 0x00#8, 0x00#8] ∧ u.ptr = 0x04#8 ∧
      OnlyCells { s with ptr := 0x04#8, dataOut := u.dataOut, returned := u.returned } u []

/-- One read of two bytes at 0x52 returns and clears both changed bitmaps and leaves STATUS.INPUT_CHANGED clear
(40_register_bank.md section 3 (d)). -/
def Obligations.ReadingBothBitmapsClearsThem : Prop :=
  ∀ s : State, s.ptr = 0x52#8 →
    ∃ t, exec (.i2cRead 2) s = .next t ∧ t.dataOut = [s.cell 0x52#7, s.cell 0x53#7] ∧
      t.cell 0x52#7 = 0x00#8 ∧ t.cell 0x53#7 = 0x00#8 ∧ t.cell 0x11#7 = s.cell 0x11#7 &&& 0xDF#8 ∧ t.ptr = 0x54#8

/-- A reset in a write frame erases the errors before it and not those after it: `W [0xF0, 0x01, x]` leaves ERROR =
0x02 and every other cell at its initial value (41_commands.md, CMD_RESET, corner cases; vector IC-5). -/
def Obligations.ResetInFrameKeepsLaterError : Prop :=
  ∀ (x : Byte) (s : State),
    ∃ t, exec (.i2cWrite 0xF0#8 [0x01#8, x]) s = .next t ∧ t.cell 0x12#7 = 0x02#8 ∧ t.ptr = 0xF2#8 ∧
      (∀ a, a ≠ 0x12#7 → t.cell a = State.reset.cell a) ∧ t = { s with bank := t.bank, ptr := 0xF2#8 }

/-! ## The tick -/

/-- TICK completes wherever it is enabled (45_main_tick.md section 1; D13), and its frame: it takes the time, and leaves
the pointer, CONTROL, ERROR, the host's cells, READY, the position, the quadrature value, the clock and the pins. -/
def Obligations.TickCompletes : Prop :=
  ∀ s : State, 10#32 ≤ s.now - s.lastTick →
    ∃ t, exec .tick s = .next t ∧
      t = { s with bank := t.bank, stable := t.stable, lastChange := t.lastChange, deltaAccum := 0#8,
                   button := t.button, pressTime := t.pressTime, lastRelease := t.lastRelease,
                   lastTick := s.now, duty := t.duty } ∧
      (∀ a, a ∉ [0x11#7, 0x50#7, 0x51#7, 0x52#7, 0x53#7, 0x60#7, 0x61#7, 0x62#7, 0x63#7] → t.cell a = s.cell a) ∧
      (t.cell 0x11#7).getLsbD 0 = (s.cell 0x11#7).getLsbD 0

/-- The debounce of every channel at a tick (42_input_engine.md section 1; D12): a channel whose level differs from its
stable bit, and whose last commit is at least CONFIG_DEBOUNCE ms ago, takes the level and the time; any other keeps
both. -/
def Obligations.TickDebouncesEachChannel : Prop :=
  ∀ s : State, 10#32 ≤ s.now - s.lastTick →
    ∃ t, exec .tick s = .next t ∧ ∀ i : Channel,
      (s.pins.raw[i] ≠ s.stable[i] ∧ (s.cell 0x71#7).setWidth 32 ≤ s.now - s.lastChange[i] →
        t.stable[i] = s.pins.raw[i] ∧ t.lastChange[i] = s.now) ∧
      (¬ (s.pins.raw[i] ≠ s.stable[i] ∧ (s.cell 0x71#7).setWidth 32 ≤ s.now - s.lastChange[i]) →
        t.stable[i] = s.stable[i] ∧ t.lastChange[i] = s.lastChange[i])

/-- The publication of the inputs at a tick (42_input_engine.md section 1; D15): the bits that changed are ORed into the
changed bitmaps, STATUS.INPUT_CHANGED is set if either is then non-zero and otherwise kept, and the stable bitmap is
published with bits 4 to 7 of the high byte 0. -/
def Obligations.TickPublishesInputs : Prop :=
  ∀ s : State, 10#32 ≤ s.now - s.lastTick →
    ∃ t, exec .tick s = .next t ∧
      (∀ k, k < 8 → (t.cell 0x50#7).getLsbD k = t.stable.getLsbD k ∧
        (t.cell 0x52#7).getLsbD k = ((s.cell 0x52#7).getLsbD k || (s.stable.getLsbD k != t.stable.getLsbD k))) ∧
      (∀ k, k < 4 → (t.cell 0x51#7).getLsbD k = t.stable.getLsbD (8 + k) ∧
        (t.cell 0x53#7).getLsbD k =
          ((s.cell 0x53#7).getLsbD k || (s.stable.getLsbD (8 + k) != t.stable.getLsbD (8 + k)))) ∧
      (∀ k, 4 ≤ k → (t.cell 0x51#7).getLsbD k = false ∧ (t.cell 0x53#7).getLsbD k = (s.cell 0x53#7).getLsbD k) ∧
      (t.cell 0x11#7).getLsbD 5 =
        ((s.cell 0x11#7).getLsbD 5 || t.cell 0x52#7 != 0x00#8 || t.cell 0x53#7 != 0x00#8)

/-- R102: the tick copies the position to 0x60/0x61 and the accumulated delta to 0x62, zeroes the accumulator, keeps the
position, and sets STATUS.ENCODER_CHANGED exactly when the delta was non-zero, never clearing it. -/
def Obligations.TickPublishesEncoder : Prop :=
  ∀ s t : State, exec .tick s = .next t →
    (∀ k, k < 8 → (t.cell 0x60#7).getLsbD k = s.position.getLsbD k ∧
      (t.cell 0x61#7).getLsbD k = s.position.getLsbD (8 + k)) ∧
    t.cell 0x62#7 = s.deltaAccum ∧ t.deltaAccum = 0#8 ∧ t.position = s.position ∧
    (t.cell 0x11#7).getLsbD 6 = ((s.cell 0x11#7).getLsbD 6 || s.deltaAccum != 0#8)

/-- R105 and R106: the button's transitions at a tick (pressed = level 0, R104), STATUS.BUTTON_PRESSED, and the code
published in 0x63. -/
def Obligations.TickClassifiesButton : Prop :=
  ∀ s t : State, exec .tick s = .next t →
    (s.button = .released → s.pins.btn = true →
      t.button = .released ∧ t.pressTime = s.pressTime ∧ t.lastRelease = s.lastRelease ∧
      (t.cell 0x11#7).getLsbD 7 = (s.cell 0x11#7).getLsbD 7) ∧
    (s.button = .released → s.pins.btn = false →
      t.button = (if s.now - s.lastRelease < 300#32 then .doubleClick else .pressed) ∧ t.pressTime = s.now ∧
      t.lastRelease = s.lastRelease ∧ (t.cell 0x11#7).getLsbD 7 = true) ∧
    (s.button = .pressed → s.pins.btn = false →
      t.button = (if 1000#32 ≤ s.now - s.pressTime then .held else .pressed) ∧ t.pressTime = s.pressTime ∧
      t.lastRelease = s.lastRelease ∧ (t.cell 0x11#7).getLsbD 7 = (s.cell 0x11#7).getLsbD 7) ∧
    (s.button = .held ∨ s.button = .doubleClick → s.pins.btn = false →
      t.button = s.button ∧ t.pressTime = s.pressTime ∧ t.lastRelease = s.lastRelease ∧
      (t.cell 0x11#7).getLsbD 7 = (s.cell 0x11#7).getLsbD 7) ∧
    (s.button ≠ .released → s.pins.btn = true →
      t.button = .released ∧ t.pressTime = s.pressTime ∧ t.lastRelease = s.now ∧
      (t.cell 0x11#7).getLsbD 7 = false) ∧
    (t.button = .released → t.cell 0x63#7 = 0x00#8) ∧ (t.button = .pressed → t.cell 0x63#7 = 0x01#8) ∧
    (t.button = .held → t.cell 0x63#7 = 0x02#8) ∧ (t.button = .doubleClick → t.cell 0x63#7 = 0x03#8)

/-- R109: the VU meters after a tick. -/
def Obligations.TickDrivesVuMeters : Prop :=
  ∀ s t : State, exec .tick s = .next t →
    ((s.cell 0x10#7).getLsbD 3 = true ∧ s.cell 0x22#7 ≠ 0xFF#8 →
      t.duty.vuLA = s.cell 0x20#7 ∧ t.duty.vuLB = 0x00#8 ∧ t.duty.vuRA = s.cell 0x21#7 ∧ t.duty.vuRB = 0x00#8 ∧
      (t.cell 0x11#7).getLsbD 2 = true) ∧
    (¬ ((s.cell 0x10#7).getLsbD 3 = true ∧ s.cell 0x22#7 ≠ 0xFF#8) →
      t.duty.vuLA = 0x00#8 ∧ t.duty.vuLB = 0x00#8 ∧ t.duty.vuRA = 0x00#8 ∧ t.duty.vuRB = 0x00#8 ∧
      (t.cell 0x11#7).getLsbD 2 = false)

/-- R110: the backlight after a tick. -/
def Obligations.TickDrivesBacklight : Prop :=
  ∀ s t : State, exec .tick s = .next t →
    ((s.cell 0x10#7).getLsbD 4 = true ∧ s.cell 0x31#7 ≠ 0xFF#8 →
      t.duty.blA = s.cell 0x30#7 ∧ t.duty.blB = 0x00#8 ∧ (t.cell 0x11#7).getLsbD 3 = true) ∧
    (¬ ((s.cell 0x10#7).getLsbD 4 = true ∧ s.cell 0x31#7 ≠ 0xFF#8) →
      t.duty.blA = 0x00#8 ∧ t.duty.blB = 0x00#8 ∧ (t.cell 0x11#7).getLsbD 3 = false)

/-- R111: the tape motor's H-bridge after a tick. -/
def Obligations.TickDrivesTapeMotor : Prop :=
  ∀ s t : State, exec .tick s = .next t →
    ((s.cell 0x10#7).getLsbD 5 = true ∧ s.cell 0x42#7 ≠ 0xFF#8 →
      (s.cell 0x41#7 = 0x01#8 →
        t.duty.tapeA = s.cell 0x40#7 ∧ t.duty.tapeB = 0x00#8 ∧ (t.cell 0x11#7).getLsbD 4 = true) ∧
      (s.cell 0x41#7 = 0x02#8 →
        t.duty.tapeA = 0x00#8 ∧ t.duty.tapeB = s.cell 0x40#7 ∧ (t.cell 0x11#7).getLsbD 4 = true) ∧
      (s.cell 0x41#7 = 0x03#8 →
        t.duty.tapeA = 0xFF#8 ∧ t.duty.tapeB = 0xFF#8 ∧ (t.cell 0x11#7).getLsbD 4 = false) ∧
      (s.cell 0x41#7 ∉ [0x01#8, 0x02#8, 0x03#8] →
        t.duty.tapeA = 0x00#8 ∧ t.duty.tapeB = 0x00#8 ∧ (t.cell 0x11#7).getLsbD 4 = false)) ∧
    (¬ ((s.cell 0x10#7).getLsbD 5 = true ∧ s.cell 0x42#7 ≠ 0xFF#8) →
      t.duty.tapeA = 0x00#8 ∧ t.duty.tapeB = 0x00#8 ∧ (t.cell 0x11#7).getLsbD 4 = false)

/-- After a tick the duties and STATUS bits 2 to 4 depend on nothing but the enable bits 3 to 5 of CONTROL and the
actuator cells: not on ENABLE (bit 0), the Input Engine, time, or what they were before (43_output_engine.md, the laws
at its end). -/
def Obligations.OutputsDependOnActuatorCellsOnly : Prop :=
  ∀ s u t w : State, exec .tick s = .next t → exec .tick u = .next w →
    (∀ k, 3 ≤ k → k ≤ 5 → (s.cell 0x10#7).getLsbD k = (u.cell 0x10#7).getLsbD k) →
    (∀ a, a ∈ [0x20#7, 0x21#7, 0x22#7, 0x30#7, 0x31#7, 0x40#7, 0x41#7, 0x42#7] → s.cell a = u.cell a) →
    t.duty = w.duty ∧ ∀ k, 2 ≤ k → k ≤ 4 → (t.cell 0x11#7).getLsbD k = (w.cell 0x11#7).getLsbD k

/-- STATUS.ERROR is the OR of the error bitmap at every tick; it follows neither a new error nor a host write to ERROR
or STATUS until then; a soft reset clears both (45_main_tick.md section 1). That the reserved bits 5 to 7 of ERROR count
in the OR is where R124 and R75 differ, and the model follows R124 (log 37). -/
def Obligations.TickRecomputesStatusError : Prop :=
  ∀ s : State,
    (∀ t, exec .tick s = .next t →
      (t.cell 0x11#7).getLsbD 1 = (s.cell 0x12#7 != 0x00#8) ∧ t.cell 0x12#7 = s.cell 0x12#7) ∧
    (∀ e, (s.raiseError e).cell 0x11#7 = s.cell 0x11#7) ∧
    (∀ v, ∃ t, exec (.bankWr 0x12#7 v) s = .next t ∧ t.cell 0x11#7 = s.cell 0x11#7) ∧
    (∀ v, ∃ t, exec (.bankWr 0x11#7 v) s = .next t ∧ t.cell 0x11#7 = v) ∧
    (∃ t, exec .cmdReset s = .next t ∧ t.cell 0x12#7 = 0x00#8 ∧ (t.cell 0x11#7).getLsbD 1 = false)

/-- A two-byte read of ENCODER_POSITION after a tick returns the two bytes of that tick's position, low byte first
(20_memory.md section 4). -/
def Obligations.PositionReadsBackAfterTick : Prop :=
  ∀ s : State, 10#32 ≤ s.now - s.lastTick →
    ∃ t u w lo hi, exec .tick s = .next t ∧ exec (.i2cWrite 0x60#8 []) t = .next u ∧ exec (.i2cRead 2) u = .next w ∧
      w.dataOut = [lo, hi] ∧ hi ++ lo = s.position

/-! ## The encoder and the environment -/

/-- R100: the transition table, all sixteen entries. -/
def Obligations.QuadratureTable : Prop :=
  (∀ a b : Bool, (quadrature a b).toNat = 2 * a.toNat + b.toNat) ∧
  quadStep 0#2 0#2 = 0 ∧ quadStep 0#2 1#2 = -1 ∧ quadStep 0#2 2#2 = 1 ∧ quadStep 0#2 3#2 = 0 ∧
  quadStep 1#2 0#2 = 1 ∧ quadStep 1#2 1#2 = 0 ∧ quadStep 1#2 2#2 = 0 ∧ quadStep 1#2 3#2 = -1 ∧
  quadStep 2#2 0#2 = -1 ∧ quadStep 2#2 1#2 = 0 ∧ quadStep 2#2 2#2 = 0 ∧ quadStep 2#2 3#2 = 1 ∧
  quadStep 3#2 0#2 = 0 ∧ quadStep 3#2 1#2 = 1 ∧ quadStep 3#2 2#2 = -1 ∧ quadStep 3#2 3#2 = 0

/-- ENC_EDGE completes wherever it is pending (42_input_engine.md section 2; D17): the position moves by the table's
step and wraps, the delta moves by it and saturates at -128 and 127, the levels become the previous ones, nothing else
changes. -/
def Obligations.EncoderEdgeCompletes : Prop :=
  ∀ s : State, s.encIrqPending = true →
    ∃ t, exec .encEdge s = .next t ∧
      t = { s with encIrqPending := false, position := t.position, deltaAccum := t.deltaAccum,
                   prevQuad := quadrature s.pins.encA s.pins.encB } ∧
      t.position = s.position + BitVec.ofInt 16 (quadStep s.prevQuad (quadrature s.pins.encA s.pins.encB)) ∧
      t.deltaAccum.toInt =
        max (-128) (min 127 (s.deltaAccum.toInt + quadStep s.prevQuad (quadrature s.pins.encA s.pins.encB)))

/-- The law of edges and publication (42_input_engine.md section 2, its law): from a zero accumulator, edges whose
partial sums stay within an i8 accumulate exactly their net displacement, and the next tick publishes it. -/
def Obligations.EdgesAccumulateDisplacement : Prop :=
  ∀ (levels : List (Bool × Bool)) (s : State), s.deltaAccum = 0#8 → 10#32 ≤ s.now - s.lastTick →
    (∀ k, -128 ≤ displacement s.prevQuad (levels.take k) ∧ displacement s.prevQuad (levels.take k) ≤ 127) →
    ∃ t u, runEdges levels s = .next t ∧
      t.position = s.position + BitVec.ofInt 16 (displacement s.prevQuad levels) ∧
      exec .tick t = .next u ∧ (u.cell 0x62#7).toInt = displacement s.prevQuad levels

/-- ENV_TIME (45_main_tick.md section 2; D12): one step is one millisecond, wrapping, within the environment's bound. -/
def Obligations.ClockAdvancesByOne : Prop :=
  ∀ (s : State) (rest : List Event), s.pending = .envTime :: rest → s.now + 1#32 ≠ s.lastTick →
    step s = .next { s with pending := rest, now := s.now + 1#32 }

/-- ENV_PIN (45_main_tick.md section 2; D17): the pin takes the level and no other pin changes; a change of level of an
encoder channel sets the pending bit, nothing clears it, and nothing else changes. -/
def Obligations.PinChangeIsSeen : Prop :=
  ∀ (s : State) (p : PinName) (v : Bool) (rest : List Event), s.pending = .envPin p v :: rest →
    ∃ t, step s = .next t ∧ t = { s with pending := rest, pins := t.pins, encIrqPending := t.encIrqPending } ∧
      readPin t.pins p = v ∧ (∀ q, q ≠ p → readPin t.pins q = readPin s.pins q) ∧
      (t.encIrqPending = true ↔
        s.encIrqPending = true ∨ ((p = .encA ∨ p = .encB) ∧ readPin s.pins p ≠ v))

/-! ## The whole machine -/

/-- ERROR is sticky (60_exceptions.md section 1): no instruction clears a bit of it but one that runs RESET or in which
the host writes 0x12, and none but the latter sets bit 3 or above (D33, log 27). Which bytes of a frame reach 0x12 or
the command port rests on D5 (log 5), and that the accepted commands leave ERROR on C16 (log 28). -/
def Obligations.ErrorBitsAreSticky : Prop :=
  ∀ (i : Instr) (s t : State) (k : Nat), exec i s = .next t → ¬ HostWrites i 0x12#7 →
    (¬ RunsReset i → (s.cell 0x12#7).getLsbD k = true → (t.cell 0x12#7).getLsbD k = true) ∧
    (3 ≤ k → (t.cell 0x12#7).getLsbD k = true → (s.cell 0x12#7).getLsbD k = true)

/-- Only the tick drives the duties (10_state.md section 7; D20, log 19): every other event leaves them. That RESET does
so is the spec's own choice D9 (log 9), that FACTORY_RESET, CALIBRATE_VU and the six TEST commands do so its choice C16
(I1, log 28): a product may give a TEST command an effect on an output. -/
def Obligations.OnlyTickDrivesDuties : Prop :=
  ∀ (e : Event) (s t : State), e ≠ .code .tick → runEvent e s = .next t → t.duty = s.duty

/-- The pointer moves only in transactions (44_i2c_endpoint.md section 1): the tick, the encoder edge, the commands on
their own, an address-only frame, the clock and the pins leave it (D4 for RESET, C16 for the accepted commands, logs 4
and 28; log 2 for a command as an instruction of its own). -/
def Obligations.PointerMovesInTransactionsOnly : Prop :=
  ∀ (e : Event) (s t : State),
    (∀ bytes, e ≠ .code (.frame (0x85#8 :: bytes))) → (∀ b bytes, e ≠ .code (.frame (0x84#8 :: b :: bytes))) →
    (∀ p, e ≠ .code (.readAt p)) → (∀ p v, e ≠ .code (.writeAt p v)) →
    runEvent e s = .next t → t.ptr = s.ptr

/-- The engines' private state is unreachable from the bus (20_memory.md section 1): whatever frame, per-byte operation
or command runs, it stays, and so do the duties, but for the counters RESET_ENCODER zeroes; nor do the clock, the pins
or the pending events change. What RESET and RESET_ENCODER leave are the spec's own choices D9 and D16 (logs 9 and 16);
that FACTORY_RESET, CALIBRATE_VU and the six TEST commands leave all of it is its choice C16 (I1, log 28), and a product
may give one of them an effect. -/
def Obligations.PrivateStateIsUnreachable : Prop :=
  ∀ (i : Instr) (s t : State), i ≠ .tick → i ≠ .encEdge → exec i s = .next t →
    t = { s with bank := t.bank, ptr := t.ptr, position := t.position, deltaAccum := t.deltaAccum,
                 dataOut := t.dataOut, returned := t.returned, draws := t.draws } ∧
    (t.position = s.position ∧ t.deltaAccum = s.deltaAccum ∨ t.position = 0#16 ∧ t.deltaAccum = 0#8)

/-- STATUS.INPUT_CHANGED stays the OR of the changed bitmaps under every instruction in which the host writes none of
0x11, 0x52 and 0x53 (10_state.md section 5; C10, D15, logs 30 and 15; D5 for which bytes of a frame land, log 5; C16 for
the accepted commands, log 28). -/
def Obligations.InputChangedBitKeepsAgreeing : Prop :=
  ∀ (i : Instr) (s t : State), InputChangedAgrees s → exec i s = .next t →
    ¬ HostWrites i 0x11#7 → ¬ HostWrites i 0x52#7 → ¬ HostWrites i 0x53#7 → InputChangedAgrees t

/-- STATUS.BUTTON_PRESSED keeps mirroring the button's state under every instruction that does not run RESET and in which
the host does not write STATUS (10_state.md section 3; C15, log 30; D5 for which bytes of a frame land, log 5; C16 for
the accepted commands, log 28). -/
def Obligations.ButtonBitKeepsAgreeing : Prop :=
  ∀ (i : Instr) (s t : State), ButtonBitAgrees s → exec i s = .next t →
    ¬ RunsReset i → ¬ HostWrites i 0x11#7 → ButtonBitAgrees t

/-- Bits 4 to 7 of INPUT_STATUS_HIGH stay 0 under every instruction in which the host does not write 0x51, and are 0
after every tick, whatever they were (10_state.md section 5; C18, log 30; D5 for which bytes of a frame land, log 5; C16
for the accepted commands, log 28). -/
def Obligations.InputHighBitsStayClear : Prop :=
  ∀ (i : Instr) (s t : State), exec i s = .next t →
    (InputHighBitsClear s → ¬ HostWrites i 0x51#7 → InputHighBitsClear t) ∧ (i = .tick → InputHighBitsClear t)

/-- The bank's form is canonical (log 32, the model's own choice): two banks in it whose cells all read alike are equal
data. -/
def Obligations.CanonicalBanksAreDetermined : Prop :=
  ∀ m k : Memory, Memory.wf m → Memory.wf k → (∀ a, a < 128 → Memory.read m a = Memory.read k a) → m = k
end

