-- ==== Sys2Proof/Laws/Memory.lean ====
section
/-! SUPPORT. The laws of the bank's memory: read after write, the canonical form, and that equal reads are equal data. -/
namespace Sys2Proof.Machine

theorem Memory.read_insert (m : Memory) (a : Nat) (v : Byte) (b : Nat) (h : ∀ c ∈ m, c.1 ≠ a) :
    Memory.read (Memory.insert a v m) b = if b = a then v else Memory.read m b := by
  induction m with
  | nil => simp [Memory.insert, Memory.read, eq_comm]
  | cons c rest ih =>
    have hc : c.1 ≠ a := h c (by simp)
    have ih := ih (fun d hd => h d (by simp [hd]))
    by_cases hlt : a < c.1
    · simp [Memory.insert, hlt, Memory.read, eq_comm]
    · have hins : Memory.insert a v (c :: rest) = c :: Memory.insert a v rest := by
        simp only [Memory.insert, hlt, if_false]
      rw [hins]
      by_cases hb : c.1 = b
      · have : b ≠ a := fun e => hc (hb.trans e)
        simp [Memory.read, hb, this]
      · simp [Memory.read, hb, ih]

theorem Memory.read_filter (m : Memory) (a b : Nat) :
    Memory.read (m.filter (fun c => c.1 != a)) b = if b = a then bankInitByte b else Memory.read m b := by
  induction m with
  | nil => simp [Memory.read]
  | cons c rest ih =>
    by_cases hc : c.1 = a
    · by_cases hb : b = a
      · simpa [List.filter_cons, hc, hb] using ih
      · have : ¬ c.1 = b := fun e => hb (e.symm.trans hc)
        simpa [List.filter_cons, hc, hb, Memory.read, Ne.symm hb] using ih
    · by_cases hb : c.1 = b
      · have : b ≠ a := fun e => hc (hb.trans e)
        simp [Memory.read, hb, this]
      · simp [hc, Memory.read, hb, ih]

/-- A read after a write gives the byte written at its address and the old byte at every other address. -/
@[simp] theorem Memory.read_write (m : Memory) (a : Nat) (v : Byte) (b : Nat) :
    Memory.read (Memory.write m a v) b = if b = a then v else Memory.read m b := by
  unfold Memory.write
  by_cases hv : v = bankInitByte a
  · rw [if_pos hv, Memory.read_filter]
    by_cases hb : b = a <;> simp [hb, hv]
  · rw [if_neg hv, Memory.read_insert _ _ _ _ (by simp), Memory.read_filter]
    by_cases hb : b = a <;> simp [hb]

theorem Memory.mem_insert (m : Memory) (a : Nat) (v : Byte) (c : Host.Cell) :
    c ∈ Memory.insert a v m ↔ c = (a, v) ∨ c ∈ m := by
  induction m with
  | nil => simp [Memory.insert]
  | cons d rest ih =>
    by_cases h : a < d.1
    · simp [Memory.insert, h]
    · simp [Memory.insert, h, ih, or_left_comm]

theorem Memory.insert_rising (m : Memory) (a : Nat) (v : Byte) (hm : m.Pairwise (fun c d => c.1 < d.1))
    (ha : ∀ c ∈ m, c.1 ≠ a) : (Memory.insert a v m).Pairwise (fun c d => c.1 < d.1) := by
  induction m with
  | nil => simp [Memory.insert]
  | cons d rest ih =>
    obtain ⟨hd, hrest⟩ := List.pairwise_cons.mp hm
    by_cases h : a < d.1
    · simp only [Memory.insert, h, if_true]
      refine List.pairwise_cons.mpr ⟨fun c hc => ?_, hm⟩
      rcases List.mem_cons.mp hc with rfl | hc
      · exact h
      · exact lt_trans h (hd c hc)
    · simp only [Memory.insert, h, if_false]
      refine List.pairwise_cons.mpr ⟨fun c hc => ?_, ih hrest (fun c hc => ha c (by simp [hc]))⟩
      rcases (Memory.mem_insert rest a v c).mp hc with rfl | hc
      · exact lt_of_le_of_ne (not_lt.mp h) (ha d (by simp))
      · exact hd c hc

/-- The memory right after reset, with nothing listed, has the canonical form. -/
theorem Memory.wf_nil : Memory.wf [] := by simp [Memory.wf]

/-- A write inside the bank keeps the canonical form. -/
theorem Memory.wf_write (m : Memory) (a : Nat) (v : Byte) (hm : Memory.wf m) (ha : a < Config.bankSize) :
    Memory.wf (Memory.write m a v) := by
  obtain ⟨hrise, hcell⟩ := hm
  have hf : (m.filter (fun c => c.1 != a)).Pairwise (fun c d => c.1 < d.1) := hrise.filter _
  have hfc : ∀ c ∈ m.filter (fun c => c.1 != a), c.1 < Config.bankSize ∧ c.2 ≠ bankInitByte c.1 :=
    fun c hc => hcell c (List.mem_filter.mp hc).1
  unfold Memory.write
  by_cases hv : v = bankInitByte a
  · rw [if_pos hv]
    exact ⟨hf, hfc⟩
  · rw [if_neg hv]
    refine ⟨Memory.insert_rising _ _ _ hf (by simp), fun c hc => ?_⟩
    rcases (Memory.mem_insert _ a v c).mp hc with rfl | hc
    · exact ⟨ha, hv⟩
    · exact hfc c hc

/-- An address below every listed one reads as its initial value. -/
theorem Memory.read_of_lt_all (m : Memory) (a : Nat) (h : ∀ c ∈ m, a < c.1) : Memory.read m a = bankInitByte a := by
  induction m with
  | nil => rfl
  | cons c rest ih =>
    have : c.1 ≠ a := (h c (by simp)).ne'
    simpa [Memory.read, this] using ih (fun d hd => h d (by simp [hd]))

end Sys2Proof.Machine
end

