-- ==== Sys2Proof/Laws/State.lean ====
section
/-! SUPPORT. The laws of the state's accessors and updates: what a cell reads after an update, what setCell leaves alone,
and the other updates as setCell, so that no later proof unfolds a record update. -/
namespace Sys2Proof.Machine

/-! setCell changes one cell and nothing else. -/

@[simp] theorem State.cell_setCell (s : State) (a b : RegAddr) (v : Byte) :
    (s.setCell a v).cell b = if b = a then v else s.cell b := by
  simp [State.cell, State.setCell, BitVec.toNat_inj]

/-- A cell depends on the bank alone, whatever the other fields hold. -/
@[simp] theorem State.cell_of_bank (s : State) (a : RegAddr) (x1 x2 x3 x4 x5 x6 x7 x8 x9 x10 x11 x12 x13 x14 x15 x16 x17 x18
    x19) : (State.mk s.bank x1 x2 x3 x4 x5 x6 x7 x8 x9 x10 x11 x12 x13 x14 x15 x16 x17 x18 x19).cell a = s.cell a := rfl

theorem State.cell_congr (s t : State) (a : RegAddr) (h : t.bank = s.bank) : t.cell a = s.cell a := by
  simp [State.cell, h]

@[simp] theorem State.setCell_ptr (s : State) (a : RegAddr) (v : Byte) : (s.setCell a v).ptr = s.ptr := rfl
@[simp] theorem State.setCell_stable (s : State) (a : RegAddr) (v : Byte) : (s.setCell a v).stable = s.stable := rfl
@[simp] theorem State.setCell_lastChange (s : State) (a : RegAddr) (v : Byte) : (s.setCell a v).lastChange = s.lastChange := rfl
@[simp] theorem State.setCell_position (s : State) (a : RegAddr) (v : Byte) : (s.setCell a v).position = s.position := rfl
@[simp] theorem State.setCell_deltaAccum (s : State) (a : RegAddr) (v : Byte) : (s.setCell a v).deltaAccum = s.deltaAccum := rfl
@[simp] theorem State.setCell_prevQuad (s : State) (a : RegAddr) (v : Byte) : (s.setCell a v).prevQuad = s.prevQuad := rfl
@[simp] theorem State.setCell_encIrqPending (s : State) (a : RegAddr) (v : Byte) : (s.setCell a v).encIrqPending = s.encIrqPending := rfl
@[simp] theorem State.setCell_button (s : State) (a : RegAddr) (v : Byte) : (s.setCell a v).button = s.button := rfl
@[simp] theorem State.setCell_pressTime (s : State) (a : RegAddr) (v : Byte) : (s.setCell a v).pressTime = s.pressTime := rfl
@[simp] theorem State.setCell_lastRelease (s : State) (a : RegAddr) (v : Byte) : (s.setCell a v).lastRelease = s.lastRelease := rfl
@[simp] theorem State.setCell_now (s : State) (a : RegAddr) (v : Byte) : (s.setCell a v).now = s.now := rfl
@[simp] theorem State.setCell_lastTick (s : State) (a : RegAddr) (v : Byte) : (s.setCell a v).lastTick = s.lastTick := rfl
@[simp] theorem State.setCell_duty (s : State) (a : RegAddr) (v : Byte) : (s.setCell a v).duty = s.duty := rfl
@[simp] theorem State.setCell_pins (s : State) (a : RegAddr) (v : Byte) : (s.setCell a v).pins = s.pins := rfl
@[simp] theorem State.setCell_dataOut (s : State) (a : RegAddr) (v : Byte) : (s.setCell a v).dataOut = s.dataOut := rfl
@[simp] theorem State.setCell_returned (s : State) (a : RegAddr) (v : Byte) : (s.setCell a v).returned = s.returned := rfl
@[simp] theorem State.setCell_pending (s : State) (a : RegAddr) (v : Byte) : (s.setCell a v).pending = s.pending := rfl
@[simp] theorem State.setCell_picks (s : State) (a : RegAddr) (v : Byte) : (s.setCell a v).picks = s.picks := rfl
@[simp] theorem State.setCell_draws (s : State) (a : RegAddr) (v : Byte) : (s.setCell a v).draws = s.draws := rfl

/-! The updates that are one setCell. -/

@[simp] theorem State.setStatus_eq (s : State) (b : StatusBit) (x : Bool) :
    s.setStatus b x = s.setCell 0x11#7 (setBit (s.cell 0x11#7) (statusIndex b) x) := rfl

@[simp] theorem State.clearControl_eq (s : State) (b : ControlBit) :
    s.clearControl b = s.setCell 0x10#7 (setBit (s.cell 0x10#7) (controlIndex b) false) := rfl

@[simp] theorem State.raiseError_eq (s : State) (e : ErrorBit) :
    s.raiseError e = s.setCell 0x12#7 (withError (s.cell 0x12#7) e) := rfl

@[simp] theorem State.status_eq (s : State) (b : StatusBit) : s.status b = (s.cell 0x11#7).getLsbD (statusIndex b) := rfl

@[simp] theorem State.control_eq (s : State) (b : ControlBit) :
    s.control b = (s.cell 0x10#7).getLsbD (controlIndex b) := rfl

@[simp] theorem State.errorBit_eq (s : State) (e : ErrorBit) :
    s.errorBit e = (s.cell 0x12#7).getLsbD (errorIndex e) := rfl

/-! BankInit, and the bank right after power-up. -/

@[simp] theorem State.cell_bankInit (s : State) (a : RegAddr) : s.bankInit.cell a = bankInitByte a.toNat := rfl

@[simp] theorem State.bankInit_ptr (s : State) : s.bankInit.ptr = s.ptr := rfl
@[simp] theorem State.bankInit_stable (s : State) : s.bankInit.stable = s.stable := rfl
@[simp] theorem State.bankInit_lastChange (s : State) : s.bankInit.lastChange = s.lastChange := rfl
@[simp] theorem State.bankInit_position (s : State) : s.bankInit.position = s.position := rfl
@[simp] theorem State.bankInit_deltaAccum (s : State) : s.bankInit.deltaAccum = s.deltaAccum := rfl
@[simp] theorem State.bankInit_prevQuad (s : State) : s.bankInit.prevQuad = s.prevQuad := rfl
@[simp] theorem State.bankInit_encIrqPending (s : State) : s.bankInit.encIrqPending = s.encIrqPending := rfl
@[simp] theorem State.bankInit_button (s : State) : s.bankInit.button = s.button := rfl
@[simp] theorem State.bankInit_pressTime (s : State) : s.bankInit.pressTime = s.pressTime := rfl
@[simp] theorem State.bankInit_lastRelease (s : State) : s.bankInit.lastRelease = s.lastRelease := rfl
@[simp] theorem State.bankInit_now (s : State) : s.bankInit.now = s.now := rfl
@[simp] theorem State.bankInit_lastTick (s : State) : s.bankInit.lastTick = s.lastTick := rfl
@[simp] theorem State.bankInit_duty (s : State) : s.bankInit.duty = s.duty := rfl
@[simp] theorem State.bankInit_pins (s : State) : s.bankInit.pins = s.pins := rfl
@[simp] theorem State.bankInit_dataOut (s : State) : s.bankInit.dataOut = s.dataOut := rfl
@[simp] theorem State.bankInit_returned (s : State) : s.bankInit.returned = s.returned := rfl
@[simp] theorem State.bankInit_pending (s : State) : s.bankInit.pending = s.pending := rfl
@[simp] theorem State.bankInit_picks (s : State) : s.bankInit.picks = s.picks := rfl
@[simp] theorem State.bankInit_draws (s : State) : s.bankInit.draws = s.draws := rfl

@[simp] theorem State.cell_reset (a : RegAddr) : State.reset.cell a = bankInitByte a.toNat := rfl

/-! The moves of a byte. -/

@[simp] theorem State.cell_pastAddress (s : State) (p : Byte) (a : RegAddr) : (s.pastAddress p).cell a = s.cell a := rfl

@[simp] theorem State.pastAddress_ptr (s : State) (p : Byte) : (s.pastAddress p).ptr = p + 1#8 := rfl
@[simp] theorem State.pastAddress_stable (s : State) (p : Byte) : (s.pastAddress p).stable = s.stable := rfl
@[simp] theorem State.pastAddress_lastChange (s : State) (p : Byte) : (s.pastAddress p).lastChange = s.lastChange := rfl
@[simp] theorem State.pastAddress_position (s : State) (p : Byte) : (s.pastAddress p).position = s.position := rfl
@[simp] theorem State.pastAddress_deltaAccum (s : State) (p : Byte) : (s.pastAddress p).deltaAccum = s.deltaAccum := rfl
@[simp] theorem State.pastAddress_prevQuad (s : State) (p : Byte) : (s.pastAddress p).prevQuad = s.prevQuad := rfl
@[simp] theorem State.pastAddress_encIrqPending (s : State) (p : Byte) : (s.pastAddress p).encIrqPending = s.encIrqPending := rfl
@[simp] theorem State.pastAddress_button (s : State) (p : Byte) : (s.pastAddress p).button = s.button := rfl
@[simp] theorem State.pastAddress_pressTime (s : State) (p : Byte) : (s.pastAddress p).pressTime = s.pressTime := rfl
@[simp] theorem State.pastAddress_lastRelease (s : State) (p : Byte) : (s.pastAddress p).lastRelease = s.lastRelease := rfl
@[simp] theorem State.pastAddress_now (s : State) (p : Byte) : (s.pastAddress p).now = s.now := rfl
@[simp] theorem State.pastAddress_lastTick (s : State) (p : Byte) : (s.pastAddress p).lastTick = s.lastTick := rfl
@[simp] theorem State.pastAddress_duty (s : State) (p : Byte) : (s.pastAddress p).duty = s.duty := rfl
@[simp] theorem State.pastAddress_pins (s : State) (p : Byte) : (s.pastAddress p).pins = s.pins := rfl
@[simp] theorem State.pastAddress_dataOut (s : State) (p : Byte) : (s.pastAddress p).dataOut = s.dataOut := rfl
@[simp] theorem State.pastAddress_returned (s : State) (p : Byte) : (s.pastAddress p).returned = s.returned := rfl
@[simp] theorem State.pastAddress_pending (s : State) (p : Byte) : (s.pastAddress p).pending = s.pending := rfl
@[simp] theorem State.pastAddress_picks (s : State) (p : Byte) : (s.pastAddress p).picks = s.picks := rfl
@[simp] theorem State.pastAddress_draws (s : State) (p : Byte) : (s.pastAddress p).draws = s.draws := rfl

@[simp] theorem State.cell_supplyByte (p : Byte) (r : Byte × State) (a : RegAddr) :
    (supplyByte p r).cell a = r.2.cell a := rfl

@[simp] theorem State.supplyByte_ptr (p : Byte) (r : Byte × State) : (supplyByte p r).ptr = p + 1#8 := rfl
@[simp] theorem State.supplyByte_stable (p : Byte) (r : Byte × State) : (supplyByte p r).stable = r.2.stable := rfl
@[simp] theorem State.supplyByte_lastChange (p : Byte) (r : Byte × State) : (supplyByte p r).lastChange = r.2.lastChange := rfl
@[simp] theorem State.supplyByte_position (p : Byte) (r : Byte × State) : (supplyByte p r).position = r.2.position := rfl
@[simp] theorem State.supplyByte_deltaAccum (p : Byte) (r : Byte × State) : (supplyByte p r).deltaAccum = r.2.deltaAccum := rfl
@[simp] theorem State.supplyByte_prevQuad (p : Byte) (r : Byte × State) : (supplyByte p r).prevQuad = r.2.prevQuad := rfl
@[simp] theorem State.supplyByte_encIrqPending (p : Byte) (r : Byte × State) : (supplyByte p r).encIrqPending = r.2.encIrqPending := rfl
@[simp] theorem State.supplyByte_button (p : Byte) (r : Byte × State) : (supplyByte p r).button = r.2.button := rfl
@[simp] theorem State.supplyByte_pressTime (p : Byte) (r : Byte × State) : (supplyByte p r).pressTime = r.2.pressTime := rfl
@[simp] theorem State.supplyByte_lastRelease (p : Byte) (r : Byte × State) : (supplyByte p r).lastRelease = r.2.lastRelease := rfl
@[simp] theorem State.supplyByte_now (p : Byte) (r : Byte × State) : (supplyByte p r).now = r.2.now := rfl
@[simp] theorem State.supplyByte_lastTick (p : Byte) (r : Byte × State) : (supplyByte p r).lastTick = r.2.lastTick := rfl
@[simp] theorem State.supplyByte_duty (p : Byte) (r : Byte × State) : (supplyByte p r).duty = r.2.duty := rfl
@[simp] theorem State.supplyByte_pins (p : Byte) (r : Byte × State) : (supplyByte p r).pins = r.2.pins := rfl
@[simp] theorem State.supplyByte_dataOut (p : Byte) (r : Byte × State) : (supplyByte p r).dataOut = r.2.dataOut ++ [r.1] := rfl
@[simp] theorem State.supplyByte_returned (p : Byte) (r : Byte × State) : (supplyByte p r).returned = r.2.returned := rfl
@[simp] theorem State.supplyByte_pending (p : Byte) (r : Byte × State) : (supplyByte p r).pending = r.2.pending := rfl
@[simp] theorem State.supplyByte_picks (p : Byte) (r : Byte × State) : (supplyByte p r).picks = r.2.picks := rfl
@[simp] theorem State.supplyByte_draws (p : Byte) (r : Byte × State) : (supplyByte p r).draws = r.2.draws := rfl

/-! The bits of a byte. -/

@[simp] theorem controlIndex_enable : controlIndex .enable = 0 := (rfl)
@[simp] theorem controlIndex_resetEncoder : controlIndex .resetEncoder = 1 := (rfl)
@[simp] theorem controlIndex_clearInputs : controlIndex .clearInputs = 2 := (rfl)
@[simp] theorem controlIndex_vuEnable : controlIndex .vuEnable = 3 := (rfl)
@[simp] theorem controlIndex_backlightEnable : controlIndex .backlightEnable = 4 := (rfl)
@[simp] theorem controlIndex_tapeEnable : controlIndex .tapeEnable = 5 := (rfl)
@[simp] theorem controlIndex_saveConfig : controlIndex .saveConfig = 6 := (rfl)
@[simp] theorem controlIndex_loadConfig : controlIndex .loadConfig = 7 := (rfl)
@[simp] theorem statusIndex_ready : statusIndex .ready = 0 := (rfl)
@[simp] theorem statusIndex_error : statusIndex .error = 1 := (rfl)
@[simp] theorem statusIndex_vuActive : statusIndex .vuActive = 2 := (rfl)
@[simp] theorem statusIndex_backlightOn : statusIndex .backlightOn = 3 := (rfl)
@[simp] theorem statusIndex_tapeRunning : statusIndex .tapeRunning = 4 := (rfl)
@[simp] theorem statusIndex_inputChanged : statusIndex .inputChanged = 5 := (rfl)
@[simp] theorem statusIndex_encoderChanged : statusIndex .encoderChanged = 6 := (rfl)
@[simp] theorem statusIndex_buttonPressed : statusIndex .buttonPressed = 7 := (rfl)
@[simp] theorem errorIndex_i2cOverflow : errorIndex .i2cOverflow = 0 := (rfl)
@[simp] theorem errorIndex_invalidReg : errorIndex .invalidReg = 1 := (rfl)
@[simp] theorem errorIndex_invalidCmd : errorIndex .invalidCmd = 2 := (rfl)
@[simp] theorem errorIndex_pwmFault : errorIndex .pwmFault = 3 := (rfl)
@[simp] theorem errorIndex_watchdog : errorIndex .watchdog = 4 := (rfl)

@[simp] theorem getLsbD_setBit (v : Byte) (i : Nat) (b : Bool) (j : Nat) :
    (setBit v i b).getLsbD j = if j = i ∧ j < 8 then b else v.getLsbD j := by
  by_cases hj : j < 8
  · rcases Nat.lt_trichotomy j i with h | h | h
    · cases b <;> simp [setBit, hj, h, h.ne]
    · subst h; cases b <;> simp [setBit, hj]
    · have h1 : ¬ j < i := by omega
      have h2 : j - i ≠ 0 := by omega
      cases b <;> simp [setBit, hj, h1, h2, h.ne']
  · have : v.getLsbD j = false := BitVec.getLsbD_of_ge _ _ (by omega)
    simp [hj, this, BitVec.getLsbD_of_ge _ _ (Nat.le_of_not_lt hj)]

@[simp] theorem getElem_setBit (v : Byte) (i : Nat) (b : Bool) (j : Nat) (hj : j < 8) :
    (setBit v i b)[j] = if j = i then b else v[j] := by
  rw [← BitVec.getLsbD_eq_getElem, getLsbD_setBit, BitVec.getLsbD_eq_getElem hj]
  simp [hj]

/-- Raising an error sets its bit and leaves the others (R131). -/
@[simp] theorem getLsbD_withError (v : Byte) (e : ErrorBit) (j : Nat) :
    (withError v e).getLsbD j = (decide (j = errorIndex e) || v.getLsbD j) := by
  have h : withError v e = setBit v (errorIndex e) true := rfl
  have he : errorIndex e < 8 := by cases e <;> decide
  rw [h, getLsbD_setBit]
  by_cases hj : j = errorIndex e
  · simp [hj, he]
  · simp [hj]

@[simp] theorem getElem_withError (v : Byte) (e : ErrorBit) (j : Nat) (hj : j < 8) :
    (withError v e)[j] = (decide (j = errorIndex e) || v[j]) := by
  rw [← BitVec.getLsbD_eq_getElem, getLsbD_withError, BitVec.getLsbD_eq_getElem hj]

end Sys2Proof.Machine
end

