-- ==== Sys2Proof/Laws/Bank.lean ====
section
/-! SUPPORT. The laws of the bank operations, the commands and the byte loops of a transaction: what each can do, said
once. -/
namespace Sys2Proof.Machine

/-! The bits of a byte as masks. -/

theorem setBit_five_false (v : Byte) : setBit v 5 false = v &&& 0xDF#8 := by revert v; decide

theorem setBit_six_false (v : Byte) : setBit v 6 false = v &&& 0xBF#8 := by revert v; decide

theorem withError_invalidReg (v : Byte) : withError v .invalidReg = v ||| 0x02#8 := rfl

theorem withError_invalidCmd (v : Byte) : withError v .invalidCmd = v ||| 0x04#8 := rfl

theorem withError_i2cOverflow (v : Byte) : withError v .i2cOverflow = v ||| 0x01#8 := rfl

/-! Reads. -/

theorem clearInputChangedIfZero_frame (s : State) :
    clearInputChangedIfZero s = { s with bank := (clearInputChangedIfZero s).bank } := by
  unfold clearInputChangedIfZero
  split_ifs <;> rfl

theorem cell_clearInputChangedIfZero (s : State) (a : RegAddr) :
    (clearInputChangedIfZero s).cell a =
      if a = 0x11#7 ∧ s.cell 0x52#7 = 0#8 ∧ s.cell 0x53#7 = 0#8 then s.cell 0x11#7 &&& 0xDF#8 else s.cell a := by
  unfold clearInputChangedIfZero
  by_cases h : s.cell 0x52#7 = 0#8 ∧ s.cell 0x53#7 = 0#8
  · rw [if_pos h]
    by_cases ha : a = 0x11#7 <;> simp [ha, h, setBit_five_false]
  · rw [if_neg h, if_neg (fun x => h x.2)]

/-- A read operation changes nothing but the bank (R78). -/
theorem memRead_frame (p : Byte) (s : State) : (memRead p s).2 = { s with bank := (memRead p s).2.bank } := by
  unfold memRead
  split_ifs
  · rfl
  · exact clearInputChangedIfZero_frame _
  · exact clearInputChangedIfZero_frame _
  · rfl
  · rfl

/-- What a read operation changes in the bank (R78). -/
theorem cell_memRead (p : Byte) (s : State) (a : RegAddr) :
    (memRead p s).2.cell a =
      if 0x80#8 ≤ p ∧ a = 0x12#7 then s.cell 0x12#7 ||| 0x02#8
      else if p = 0x52#8 ∧ a = 0x52#7 ∨ p = 0x53#8 ∧ a = 0x53#7 then 0#8
      else if a = 0x11#7 ∧ (p = 0x52#8 ∧ s.cell 0x53#7 = 0#8 ∨ p = 0x53#8 ∧ s.cell 0x52#7 = 0#8)
        then s.cell 0x11#7 &&& 0xDF#8
      else if a = 0x11#7 ∧ p = 0x62#8 then s.cell 0x11#7 &&& 0xBF#8
      else s.cell a := by
  unfold memRead
  by_cases h1 : 0x80#8 ≤ p
  · have h2 : p ≠ 0x52#8 := by rintro rfl; revert h1; decide
    have h3 : p ≠ 0x53#8 := by rintro rfl; revert h1; decide
    have h4 : p ≠ 0x62#8 := by rintro rfl; revert h1; decide
    by_cases ha : a = 0x12#7 <;> simp [h1, h2, h3, h4, ha, readOutside, withError_invalidReg]
  · rw [if_neg h1]
    by_cases h2 : p = 0x52#8
    · subst h2
      rcases eq_or_ne a 0x52#7 with rfl | ha
      · simp [readChanged, cell_clearInputChangedIfZero]
      · simp [readChanged, cell_clearInputChangedIfZero, ha]
    · by_cases h3 : p = 0x53#8
      · subst h3
        rcases eq_or_ne a 0x53#7 with rfl | ha
        · simp [readChanged, cell_clearInputChangedIfZero]
        · simp [readChanged, cell_clearInputChangedIfZero, ha]
      · by_cases h4 : p = 0x62#8
        · subst h4
          by_cases h11 : a = 0x11#7 <;> simp [h11, readEncoderDelta, setBit_six_false]
        · simp [h1, h2, h3, h4, readPlain]

/-- The byte a read operation returns (R78). -/
theorem memRead_value (p : Byte) (s : State) :
    (memRead p s).1 = if 0x80#8 ≤ p then 0xFF#8 else s.cell (cellAddr p) := by
  unfold memRead
  split_ifs with h1 h2 h3 h4
  · rfl
  · subst h2; rfl
  · subst h3; rfl
  · subst h4; rfl
  · rfl

/-! The CONTROL actions. -/

/-- What RESET_ENCODER changes in the bank (R87). -/
theorem cell_actResetEncoder (s : State) (a : RegAddr) :
    (actResetEncoder s).cell a =
      if (s.cell 0x10#7)[1] = true ∧ a = 0x10#7 then setBit (s.cell 0x10#7) 1 false
      else if (s.cell 0x10#7)[1] = true ∧ (a = 0x60#7 ∨ a = 0x61#7 ∨ a = 0x62#7) then 0#8
      else s.cell a := by
  unfold actResetEncoder
  cases h : (s.cell 0x10#7)[1]
  · simp [h]
  · rcases eq_or_ne a 0x10#7 with rfl | h10
    · simp [h]
    · simp [h, h10]
      grind

/-- What CLEAR_INPUTS changes in the bank (R87). -/
theorem cell_actClearInputs (s : State) (a : RegAddr) :
    (actClearInputs s).cell a =
      if (s.cell 0x10#7)[2] = true ∧ a = 0x10#7 then setBit (s.cell 0x10#7) 2 false
      else if (s.cell 0x10#7)[2] = true ∧ (a = 0x52#7 ∨ a = 0x53#7) then 0#8
      else if (s.cell 0x10#7)[2] = true ∧ a = 0x11#7 then s.cell 0x11#7 &&& 0xDF#8
      else s.cell a := by
  unfold actClearInputs
  cases h : (s.cell 0x10#7)[2]
  · simp [h]
  · rcases eq_or_ne a 0x10#7 with rfl | h10
    · simp [h]
    · rcases eq_or_ne a 0x11#7 with rfl | h11
      · simp [h, setBit_five_false]
      · simp [h, h10, h11]
        grind

/-- CONTROL without its action bits (R87). -/
theorem controlByte_after (v : Byte) :
    setBit (setBit (if v[2] then setBit (if v[1] then setBit v 1 false else v) 2 false
      else if v[1] then setBit v 1 false else v) 6 false) 7 false = v &&& 0x39#8 := by revert v; decide

/-- What the CONTROL actions change in the bank (R87). -/
theorem cell_controlActions (s : State) (a : RegAddr) :
    (controlActions s).cell a =
      if a = 0x10#7 then s.cell 0x10#7 &&& 0x39#8
      else if (s.cell 0x10#7)[1] = true ∧ (a = 0x60#7 ∨ a = 0x61#7 ∨ a = 0x62#7) then 0#8
      else if (s.cell 0x10#7)[2] = true ∧ (a = 0x52#7 ∨ a = 0x53#7) then 0#8
      else if (s.cell 0x10#7)[2] = true ∧ a = 0x11#7 then s.cell 0x11#7 &&& 0xDF#8
      else s.cell a := by
  unfold controlActions
  rcases eq_or_ne a 0x10#7 with rfl | h10
  · have h := controlByte_after (s.cell 0x10#7)
    cases h1 : (s.cell 0x10#7)[1] <;> cases h2 : (s.cell 0x10#7)[2]
    all_goals simpa [cell_actClearInputs, cell_actResetEncoder, h1, h2] using h
  · cases h1 : (s.cell 0x10#7)[1] <;> cases h2 : (s.cell 0x10#7)[2]
    · simp [cell_actClearInputs, cell_actResetEncoder, h1, h2, h10]
    · simp [cell_actClearInputs, cell_actResetEncoder, h1, h2, h10]
    · simp [cell_actClearInputs, cell_actResetEncoder, h1, h2, h10]
    · simp [cell_actClearInputs, cell_actResetEncoder, h1, h2, h10]
      grind

/-- Outside the bank the CONTROL actions change nothing but the private counters, which RESET_ENCODER zeroes (R87). -/
theorem controlActions_frame (s : State) :
    controlActions s = { s with
      bank := (controlActions s).bank
      position := if (s.cell 0x10#7)[1] then 0#16 else s.position
      deltaAccum := if (s.cell 0x10#7)[1] then 0#8 else s.deltaAccum } := by
  have hinputs : ∀ u : State, actClearInputs u = { u with bank := (actClearInputs u).bank } := by
    intro u
    unfold actClearInputs
    split_ifs <;> rfl
  have hencoder : actResetEncoder s = { s with
      bank := (actResetEncoder s).bank
      position := if (s.cell 0x10#7)[1] then 0#16 else s.position
      deltaAccum := if (s.cell 0x10#7)[1] then 0#8 else s.deltaAccum } := by
    unfold actResetEncoder
    cases h : (s.cell 0x10#7)[1]
    · simp [h]
    · simp [h]
      rfl
  have h : controlActions s = ((actClearInputs (actResetEncoder s)).clearControl .saveConfig).clearControl .loadConfig := rfl
  rw [h, hinputs, hencoder]
  rfl

/-! Commands and writes. -/

/-- A command changes nothing outside the bank (R91). -/
theorem executeCommand_frame (c : Byte) (s : State) :
    (executeCommand c s).2 = { s with bank := (executeCommand c s).2.bank } := by
  unfold executeCommand
  split_ifs <;> rfl

/-- What a command changes in the bank: all of it, ERROR, or nothing (R91 to R95). -/
theorem executeCommand_cases (c : Byte) (s : State) :
    c = 0x01#8 ∧ (executeCommand c s).2 = s.bankInit ∨ (executeCommand c s).2 = s.raiseError .invalidCmd ∨
      (executeCommand c s).2 = s := by
  unfold executeCommand
  split_ifs with h0 h1
  · exact .inr (.inr rfl)
  · exact .inl ⟨h1, rfl⟩
  all_goals first
    | exact .inr (.inr rfl)
    | exact .inr (.inl rfl)

/-- What a write operation does (R84): a refusal, a command, the CONTROL actions, or a plain store. -/
theorem memWrite_cases (p v : Byte) (s : State) :
    (p ≤ 0x03#8 ∨ 0x80#8 ≤ p ∧ p ≠ 0xF0#8) ∧ memWrite p v s = (.err, s.raiseError .invalidReg) ∨
    p = 0xF0#8 ∧ memWrite p v s = executeCommand v s ∨
    p = 0x10#8 ∧ memWrite p v s = (.ok, controlActions (s.setCell 0x10#7 v)) ∨
    (0x04#8 ≤ p ∧ p < 0x80#8 ∧ p ≠ 0x10#8) ∧ memWrite p v s = (.ok, s.setCell (cellAddr p) v) := by
  unfold memWrite
  split_ifs with h1 h2 h3 h4
  · exact .inl ⟨.inl h1, rfl⟩
  · exact .inr (.inl ⟨h2, rfl⟩)
  · exact .inl ⟨.inr ⟨h3, h2⟩, rfl⟩
  · exact .inr (.inr (.inl ⟨h4, rfl⟩))
  · refine .inr (.inr (.inr ⟨⟨?_, by simpa using h3, h4⟩, rfl⟩))
    revert h1; revert p; decide

/-- A write operation changes nothing outside the bank but the private counters, which it may zero (R84, R87). -/
theorem memWrite_frame (p v : Byte) (s : State) :
    (memWrite p v s).2 = { s with
      bank := (memWrite p v s).2.bank
      position := (memWrite p v s).2.position
      deltaAccum := (memWrite p v s).2.deltaAccum } ∧
    ((memWrite p v s).2.position = s.position ∧ (memWrite p v s).2.deltaAccum = s.deltaAccum ∨
      (memWrite p v s).2.position = 0#16 ∧ (memWrite p v s).2.deltaAccum = 0#8) := by
  rcases memWrite_cases p v s with ⟨-, h⟩ | ⟨-, h⟩ | ⟨-, h⟩ | ⟨-, h⟩ <;> rw [h]
  · exact ⟨rfl, .inl ⟨rfl, rfl⟩⟩
  · rw [executeCommand_frame]
    exact ⟨rfl, .inl ⟨rfl, rfl⟩⟩
  · rw [controlActions_frame]
    refine ⟨rfl, ?_⟩
    cases ((s.setCell 0x10#7 v).cell 0x10#7)[1]
    · exact .inl ⟨rfl, rfl⟩
    · exact .inr ⟨rfl, rfl⟩
  · exact ⟨rfl, .inl ⟨rfl, rfl⟩⟩

@[simp] theorem memWrite_ptr (p v : Byte) (s : State) : (memWrite p v s).2.ptr = s.ptr := by
  rw [(memWrite_frame p v s).1]

@[simp] theorem memRead_ptr (p : Byte) (s : State) : (memRead p s).2.ptr = s.ptr := by
  rw [memRead_frame]

/-! The byte loops: a relation that each byte keeps, the loop keeps. -/

theorem writeBytes_rel (R : State → State → Prop) (hrefl : ∀ s, R s s) (htrans : ∀ s t u, R s t → R t u → R s u)
    (hbyte : ∀ s v, R s (takeByte s.ptr (memWrite s.ptr v s))) (data : List Byte) (s : State) :
    R s (writeBytes data s) := by
  induction data generalizing s with
  | nil => exact hrefl s
  | cons v rest ih => exact htrans _ _ _ (hbyte s v) (ih _)

theorem readBytes_rel (R : State → State → Prop) (hrefl : ∀ s, R s s) (htrans : ∀ s t u, R s t → R t u → R s u)
    (hbyte : ∀ s, R s (supplyByte s.ptr (memRead s.ptr s))) (n : Nat) (s : State) : R s (readBytes n s) := by
  induction n generalizing s with
  | zero => exact hrefl s
  | succ k ih => exact htrans _ _ _ (hbyte s) (ih _)

/-- A property of states that each byte of a write keeps at the address it lands on, the whole write keeps (R118). -/
theorem writeBytes_keeps (P : State → Prop) (data : List Byte) (s : State)
    (hbyte : ∀ k v, data[k]? = some v → ∀ u, u.ptr = s.ptr + BitVec.ofNat 8 k → P u →
      P (takeByte u.ptr (memWrite u.ptr v u))) (h : P s) : P (writeBytes data s) := by
  induction data generalizing s with
  | nil => exact h
  | cons v rest ih =>
    refine ih _ ?_ (hbyte 0 v rfl s (by simp) h)
    intro k w hw u hu
    refine hbyte (k + 1) w (by simpa using hw) u ?_
    rw [hu, Nat.add_comm k 1, BitVec.ofNat_add]
    simp [takeByte, BitVec.add_assoc]

/-- The pointer after the data bytes of a write (R117). -/
theorem writeBytes_ptr (data : List Byte) (s : State) :
    (writeBytes data s).ptr = s.ptr + BitVec.ofNat 8 data.length := by
  induction data generalizing s with
  | nil => simp [writeBytes]
  | cons v rest ih =>
    rw [writeBytes, ih, List.length_cons, Nat.add_comm rest.length 1, BitVec.ofNat_add]
    simp [takeByte, BitVec.add_assoc]

/-- The pointer after the bytes of a read (R117). -/
theorem readBytes_ptr (n : Nat) (s : State) : (readBytes n s).ptr = s.ptr + BitVec.ofNat 8 n := by
  induction n generalizing s with
  | zero => simp [readBytes]
  | succ k ih =>
    rw [readBytes, ih, Nat.add_comm k 1, BitVec.ofNat_add]
    simp [BitVec.add_assoc]

/-- The bytes drawn past the buffer, and that drawing changes nothing else (R120, D6). -/
theorem drawBytes_eq (n : Nat) (s : State) :
    drawBytes n s = { s with
      dataOut := s.dataOut ++ (List.range n).map (fun k => Config.freeByte (s.draws + k))
      draws := s.draws + n } := by
  induction n generalizing s with
  | zero => simp [drawBytes]
  | succ k ih =>
    rw [drawBytes, ih, List.range_succ_eq_map]
    simp [List.append_assoc, Nat.add_assoc, Nat.add_comm 1, Function.comp_def]

/-- The overflow changes nothing but ERROR (R118, R120). -/
theorem raiseIfOverflow_frame (n : Nat) (s : State) :
    raiseIfOverflow n s = { s with bank := (raiseIfOverflow n s).bank } := by
  unfold raiseIfOverflow
  split_ifs <;> rfl

theorem cell_raiseIfOverflow (n : Nat) (s : State) (a : RegAddr) :
    (raiseIfOverflow n s).cell a = if a = 0x12#7 ∧ 32 < n then s.cell 0x12#7 ||| 0x01#8 else s.cell a := by
  unfold raiseIfOverflow
  by_cases h : Config.i2cBuf < n
  · have h' : 32 < n := h
    by_cases ha : a = 0x12#7 <;> simp [h, h', ha, withError_i2cOverflow]
  · have h' : ¬ 32 < n := h
    simp [h, h']

/-! The fields a read operation and the overflow leave alone. -/

@[simp] theorem memRead_stable (p : Byte) (s : State) : (memRead p s).2.stable = s.stable := by rw [memRead_frame]
@[simp] theorem memRead_lastChange (p : Byte) (s : State) : (memRead p s).2.lastChange = s.lastChange := by rw [memRead_frame]
@[simp] theorem memRead_position (p : Byte) (s : State) : (memRead p s).2.position = s.position := by rw [memRead_frame]
@[simp] theorem memRead_deltaAccum (p : Byte) (s : State) : (memRead p s).2.deltaAccum = s.deltaAccum := by rw [memRead_frame]
@[simp] theorem memRead_prevQuad (p : Byte) (s : State) : (memRead p s).2.prevQuad = s.prevQuad := by rw [memRead_frame]
@[simp] theorem memRead_encIrqPending (p : Byte) (s : State) : (memRead p s).2.encIrqPending = s.encIrqPending := by rw [memRead_frame]
@[simp] theorem memRead_button (p : Byte) (s : State) : (memRead p s).2.button = s.button := by rw [memRead_frame]
@[simp] theorem memRead_pressTime (p : Byte) (s : State) : (memRead p s).2.pressTime = s.pressTime := by rw [memRead_frame]
@[simp] theorem memRead_lastRelease (p : Byte) (s : State) : (memRead p s).2.lastRelease = s.lastRelease := by rw [memRead_frame]
@[simp] theorem memRead_now (p : Byte) (s : State) : (memRead p s).2.now = s.now := by rw [memRead_frame]
@[simp] theorem memRead_lastTick (p : Byte) (s : State) : (memRead p s).2.lastTick = s.lastTick := by rw [memRead_frame]
@[simp] theorem memRead_duty (p : Byte) (s : State) : (memRead p s).2.duty = s.duty := by rw [memRead_frame]
@[simp] theorem memRead_pins (p : Byte) (s : State) : (memRead p s).2.pins = s.pins := by rw [memRead_frame]
@[simp] theorem memRead_dataOut (p : Byte) (s : State) : (memRead p s).2.dataOut = s.dataOut := by rw [memRead_frame]
@[simp] theorem memRead_returned (p : Byte) (s : State) : (memRead p s).2.returned = s.returned := by rw [memRead_frame]
@[simp] theorem memRead_pending (p : Byte) (s : State) : (memRead p s).2.pending = s.pending := by rw [memRead_frame]
@[simp] theorem memRead_picks (p : Byte) (s : State) : (memRead p s).2.picks = s.picks := by rw [memRead_frame]
@[simp] theorem memRead_draws (p : Byte) (s : State) : (memRead p s).2.draws = s.draws := by rw [memRead_frame]

@[simp] theorem raiseIfOverflow_ptr (n : Nat) (s : State) : (raiseIfOverflow n s).ptr = s.ptr := by
  rw [raiseIfOverflow_frame]
@[simp] theorem raiseIfOverflow_stable (n : Nat) (s : State) : (raiseIfOverflow n s).stable = s.stable := by
  rw [raiseIfOverflow_frame]
@[simp] theorem raiseIfOverflow_lastChange (n : Nat) (s : State) : (raiseIfOverflow n s).lastChange = s.lastChange := by
  rw [raiseIfOverflow_frame]
@[simp] theorem raiseIfOverflow_position (n : Nat) (s : State) : (raiseIfOverflow n s).position = s.position := by
  rw [raiseIfOverflow_frame]
@[simp] theorem raiseIfOverflow_deltaAccum (n : Nat) (s : State) : (raiseIfOverflow n s).deltaAccum = s.deltaAccum := by
  rw [raiseIfOverflow_frame]
@[simp] theorem raiseIfOverflow_prevQuad (n : Nat) (s : State) : (raiseIfOverflow n s).prevQuad = s.prevQuad := by
  rw [raiseIfOverflow_frame]
@[simp] theorem raiseIfOverflow_encIrqPending (n : Nat) (s : State) : (raiseIfOverflow n s).encIrqPending = s.encIrqPending := by
  rw [raiseIfOverflow_frame]
@[simp] theorem raiseIfOverflow_button (n : Nat) (s : State) : (raiseIfOverflow n s).button = s.button := by
  rw [raiseIfOverflow_frame]
@[simp] theorem raiseIfOverflow_pressTime (n : Nat) (s : State) : (raiseIfOverflow n s).pressTime = s.pressTime := by
  rw [raiseIfOverflow_frame]
@[simp] theorem raiseIfOverflow_lastRelease (n : Nat) (s : State) : (raiseIfOverflow n s).lastRelease = s.lastRelease := by
  rw [raiseIfOverflow_frame]
@[simp] theorem raiseIfOverflow_now (n : Nat) (s : State) : (raiseIfOverflow n s).now = s.now := by
  rw [raiseIfOverflow_frame]
@[simp] theorem raiseIfOverflow_lastTick (n : Nat) (s : State) : (raiseIfOverflow n s).lastTick = s.lastTick := by
  rw [raiseIfOverflow_frame]
@[simp] theorem raiseIfOverflow_duty (n : Nat) (s : State) : (raiseIfOverflow n s).duty = s.duty := by
  rw [raiseIfOverflow_frame]
@[simp] theorem raiseIfOverflow_pins (n : Nat) (s : State) : (raiseIfOverflow n s).pins = s.pins := by
  rw [raiseIfOverflow_frame]
@[simp] theorem raiseIfOverflow_dataOut (n : Nat) (s : State) : (raiseIfOverflow n s).dataOut = s.dataOut := by
  rw [raiseIfOverflow_frame]
@[simp] theorem raiseIfOverflow_returned (n : Nat) (s : State) : (raiseIfOverflow n s).returned = s.returned := by
  rw [raiseIfOverflow_frame]
@[simp] theorem raiseIfOverflow_pending (n : Nat) (s : State) : (raiseIfOverflow n s).pending = s.pending := by
  rw [raiseIfOverflow_frame]
@[simp] theorem raiseIfOverflow_picks (n : Nat) (s : State) : (raiseIfOverflow n s).picks = s.picks := by
  rw [raiseIfOverflow_frame]
@[simp] theorem raiseIfOverflow_draws (n : Nat) (s : State) : (raiseIfOverflow n s).draws = s.draws := by
  rw [raiseIfOverflow_frame]

/-- The bytes of a read change nothing outside the bank but the pointer and the bytes supplied (R120). -/
theorem readBytes_frame (n : Nat) (s : State) :
    readBytes n s = { s with
      bank := (readBytes n s).bank
      ptr := (readBytes n s).ptr
      dataOut := (readBytes n s).dataOut } := by
  refine readBytes_rel (fun s t => t = { s with bank := t.bank, ptr := t.ptr, dataOut := t.dataOut })
    (fun _ => rfl) ?_ ?_ n s
  · intro s t u h1 h2
    rw [h2, h1]
  · intro s
    rw [supplyByte, memRead_frame]

@[simp] theorem readBytes_draws (n : Nat) (s : State) : (readBytes n s).draws = s.draws := by rw [readBytes_frame]

@[simp] theorem readBytes_returned (n : Nat) (s : State) : (readBytes n s).returned = s.returned := by
  rw [readBytes_frame]

/-- Each byte of a read supplies one byte (R120). -/
theorem readBytes_length (n : Nat) (s : State) : (readBytes n s).dataOut.length = s.dataOut.length + n := by
  induction n generalizing s with
  | zero => rfl
  | succ k ih =>
    rw [readBytes, ih]
    simp
    omega

/-- The bytes of a write change nothing outside the bank but the pointer and the private counters (R118, R87). -/
theorem writeBytes_frame (data : List Byte) (s : State) :
    writeBytes data s = { s with
      bank := (writeBytes data s).bank
      ptr := (writeBytes data s).ptr
      position := (writeBytes data s).position
      deltaAccum := (writeBytes data s).deltaAccum } := by
  refine writeBytes_rel (fun s t => t = { s with
      bank := t.bank, ptr := t.ptr, position := t.position, deltaAccum := t.deltaAccum })
    (fun _ => rfl) ?_ ?_ data s
  · intro s t u h1 h2
    rw [h2, h1]
  · intro s v
    rw [takeByte, (memWrite_frame s.ptr v s).1]
    rfl

end Sys2Proof.Machine
end

