-- ==== Sys2Proof/Laws/Decode.lean ====
section
/-! SUPPORT. The laws of the decoder and the encoder: addresses, the OPEN command codes, and what each decoded per-byte
operation or command executes. -/
namespace Sys2Proof

/-! Addresses. -/

theorem busAddr_cellAddr (p : Byte) (h : p < 0x80#8) : busAddr (cellAddr p) = p := by
  simp only [busAddr, cellAddr]
  apply BitVec.eq_of_toNat_eq
  have : p.toNat < 128 := by simpa [BitVec.lt_def] using h
  simp
  omega

theorem outsideAddr_cellAddr (p : Byte) (h : 0x80#8 ≤ p) : outsideAddr (cellAddr p) = p := by
  revert h; revert p; decide

theorem cellAddr_busAddr (a : RegAddr) : cellAddr (busAddr a) = a := by
  simp [busAddr, cellAddr]

theorem cellAddr_outsideAddr (a : RegAddr) : cellAddr (outsideAddr a) = a := by
  revert a; decide

theorem busAddr_lt (a : RegAddr) : busAddr a < 0x80#8 := by
  revert a; decide

theorem le_outsideAddr (a : RegAddr) : 0x80#8 ≤ outsideAddr a := by
  revert a; decide

theorem outsideAddr_eq_add (a : RegAddr) : outsideAddr a = 0x80#8 + a.setWidth 8 := by
  revert a; decide

/-! The OPEN codes (R9, D8). -/

theorem Config.legalTestCode_toNat (k : Fin 251) :
    (Config.legalTestCode k).toNat =
      if k.val < 13 then k.val + 3 else if k.val < 115 then k.val + 4 else k.val + 5 := by
  have := k.isLt
  simp only [Config.legalTestCode, BitVec.toNat_ofNat]
  split_ifs <;> omega

theorem Config.legalTestCode_injective : Function.Injective Config.legalTestCode := by
  intro j k h
  have h := congrArg BitVec.toNat h
  rw [Config.legalTestCode_toNat, Config.legalTestCode_toNat] at h
  apply Fin.ext
  split_ifs at h <;> omega

/-- No OPEN code is 0x00, 0x01, 0x02, 0x10 or 0x77. -/
theorem Config.testCode_ne (k : Fin 6) (c : Byte) (hc : c ∈ [0x00#8, 0x01#8, 0x02#8, 0x10#8, 0x77#8]) :
    Config.testCode k ≠ c := by
  intro h
  have h := congrArg BitVec.toNat h
  rw [Config.testCode, Config.legalTestCode_toNat] at h
  simp only [List.mem_cons, List.not_mem_nil, or_false] at hc
  rcases hc with rfl | rfl | rfl | rfl | rfl <;> simp at h <;> split_ifs at h <;> omega

/-- The OPEN codes are pairwise distinct. -/
theorem Config.testCode_injective : Function.Injective Config.testCode := by
  intro j k h
  have h := Config.testCodeOrder.injective (Config.legalTestCode_injective h)
  exact Fin.castLE_injective _ h

theorem Config.testCode_eq_iff (j k : Fin 6) : Config.testCode j = Config.testCode k ↔ j = k :=
  Config.testCode_injective.eq_iff

/-! What a decoded operation executes. -/

/-- Which codes name a command (R71). -/
theorem Config.mem_namedCommands (c : Byte) :
    c ∈ Config.namedCommands ↔ c = Config.cmdNop ∨ c = Config.cmdReset ∨ c = Config.cmdFactoryReset ∨
      c = Config.cmdCalibrateVu ∨ c = Config.cmdTestVuLeft ∨ c = Config.cmdTestVuRight ∨ c = Config.cmdTestVuBoth ∨
      c = Config.cmdTestBacklight ∨ c = Config.cmdTestTapeMotor ∨ c = Config.cmdTestAll := by
  simp [Config.namedCommands]

/-- The command a byte names is `ExecuteCommand` of it (R71, R91). -/
theorem Machine.exec_decodeCommand (c : Byte) (s : Machine.State) :
    Machine.exec (decodeCommand c) s = .next (Machine.executeCommand c s).2 := by
  have hmem := Config.mem_namedCommands c
  unfold decodeCommand Machine.executeCommand
  by_cases h0 : c = Config.cmdNop
  · rw [if_pos h0, if_pos h0]; rfl
  rw [if_neg h0, if_neg h0]
  by_cases h1 : c = Config.cmdReset
  · rw [if_pos h1, if_pos h1]; rfl
  rw [if_neg h1, if_neg h1]
  by_cases h2 : c = Config.cmdFactoryReset
  · rw [if_pos h2, if_pos (Or.inl h2)]; rfl
  rw [if_neg h2]
  by_cases h3 : c = Config.cmdCalibrateVu
  · rw [if_pos h3, if_pos (Or.inr h3)]; rfl
  rw [if_neg h3, if_neg (not_or.mpr ⟨h2, h3⟩)]
  by_cases h4 : c = Config.cmdShownInvalid
  · rw [if_pos h4, if_pos h4]; rfl
  rw [if_neg h4, if_neg h4]
  by_cases h : c ∈ Config.namedCommands
  · rw [if_pos h]
    split_ifs with t1 t2 t3 t4 t5 t6
    all_goals first
      | rfl
      | exact absurd (hmem.mp h) (by tauto)
  · rw [if_neg h]
    have h := fun x => h (hmem.mpr x)
    rw [if_neg (by tauto), if_neg (by tauto), if_neg (by tauto), if_neg (by tauto), if_neg (by tauto), if_neg (by tauto)]
    rfl

namespace Machine

/-- The read operation a pointer value selects is one byte of `MemRead` supplied (R70, R78). -/
theorem exec_decodeRead (p : Byte) (s : State) :
    exec (decodeRead p) s = .next (supplyByte p (memRead p s)) := by
  unfold decodeRead memRead
  by_cases h80 : p < 0x80#8
  · have hle : ¬ 0x80#8 ≤ p := by simpa using h80
    have hbus := busAddr_cellAddr p h80
    split_ifs with h1 h2 h3 <;>
      simp_all [exec, execBankRd, execBankRdIcl, execBankRdIch, execBankRdEdelta]
  · have hle : 0x80#8 ≤ p := by simpa using h80
    have h1 : p ≠ 0x52#8 := by rintro rfl; simp at h80
    have h2 : p ≠ 0x53#8 := by rintro rfl; simp at h80
    have h3 : p ≠ 0x62#8 := by rintro rfl; simp at h80
    simp [h80, hle, h1, h2, h3, exec, execBankRdInvalid, outsideAddr_cellAddr p hle]

/-- The write operation a pointer value selects is one byte of `MemWrite` taken (R70, R84). -/
theorem exec_decodeWrite (p v : Byte) (s : State) :
    exec (decodeWrite p v) s = .next (takeByte p (memWrite p v s)) := by
  unfold decodeWrite memWrite
  have hro : (p &&& 0xFC#8 = 0x00#8) ↔ p ≤ 0x03#8 := by revert p; decide
  have hsmall : p ≤ 0x03#8 → (p.setWidth 2).setWidth 8 = p := by revert p; decide
  by_cases hp : p ≤ 0x03#8
  · have h1 : p ≠ Config.cmdPort := by rintro rfl; revert hp; decide
    have h2 : p ≠ 0x10#8 := by rintro rfl; revert hp; decide
    have h3 : p &&& 0xFC#8 = 0x00#8 := hro.mpr hp
    rw [if_neg h1, if_neg h2, if_pos h3, if_pos hp]
    simp only [exec, execBankWrRo, hsmall hp]
  · have h3 : ¬ (p &&& 0xFC#8 = 0x00#8) := fun h => hp (hro.mp h)
    rw [if_neg hp]
    by_cases h1 : p = Config.cmdPort
    · subst h1
      simp [exec, execBankWrCmd]
    · by_cases h2 : p = 0x10#8
      · subst h2
        simp [h1, exec, execBankWrControl]
      · by_cases h80 : p < 0x80#8
        · have hle : ¬ 0x80#8 ≤ p := by simpa using h80
          rw [if_neg h1, if_neg h2, if_neg h3, if_pos h80, if_neg h1, if_neg hle, if_neg h2]
          simp only [exec, execBankWr, busAddr_cellAddr p h80]
        · have hle : 0x80#8 ≤ p := by simpa using h80
          rw [if_neg h1, if_neg h2, if_neg h3, if_neg h80, if_neg h1, if_pos hle]
          simp only [exec, execBankWrInvalid, outsideAddr_cellAddr p hle]

end Machine

end Sys2Proof
end

