-- ==== Sys2Proof/Laws/PerInstr.lean ====
section
/-! SUPPORT. The statements made per instruction, one lemma for each constructor. -/
namespace Sys2Proof.Laws

/-- The encoding of a well-formed instruction begins with a byte that the instruction's own row of the opcode table
matches, in that row's format (R66 to R71). -/
def EncodeMatchesTable.Statement (i : Instr) : Prop :=
  i.wellFormed = true → ∀ r, tableRow i = some r → ∃ b, codeHead (encode i) = some (r.format, b) ∧ rowMatches r b = true

theorem EncodeMatchesTable.i2cWrite (reg : Byte) (data : List Byte) :
    EncodeMatchesTable.Statement (.i2cWrite reg data) := by
  rintro - r ⟨⟩
  exact ⟨_, rfl, rfl⟩

theorem EncodeMatchesTable.i2cAddrOnly : EncodeMatchesTable.Statement .i2cAddrOnly := by
  rintro - r ⟨⟩
  exact ⟨_, rfl, rfl⟩

theorem EncodeMatchesTable.i2cRead (n : Nat) : EncodeMatchesTable.Statement (.i2cRead n) := by
  rintro - r ⟨⟩
  exact ⟨_, rfl, rfl⟩

theorem EncodeMatchesTable.bankRd (a : RegAddr) : EncodeMatchesTable.Statement (.bankRd a) := by
  rintro - r ⟨⟩
  exact ⟨_, rfl, by revert a; decide⟩

theorem EncodeMatchesTable.bankRdIcl : EncodeMatchesTable.Statement .bankRdIcl := by
  rintro - r ⟨⟩
  exact ⟨_, rfl, rfl⟩

theorem EncodeMatchesTable.bankRdIch : EncodeMatchesTable.Statement .bankRdIch := by
  rintro - r ⟨⟩
  exact ⟨_, rfl, rfl⟩

theorem EncodeMatchesTable.bankRdEdelta : EncodeMatchesTable.Statement .bankRdEdelta := by
  rintro - r ⟨⟩
  exact ⟨_, rfl, rfl⟩

theorem EncodeMatchesTable.bankRdInvalid (a : RegAddr) : EncodeMatchesTable.Statement (.bankRdInvalid a) := by
  rintro - r ⟨⟩
  exact ⟨_, rfl, by revert a; decide⟩

theorem EncodeMatchesTable.bankWr (a : RegAddr) (v : Byte) : EncodeMatchesTable.Statement (.bankWr a v) := by
  rintro - r ⟨⟩
  exact ⟨_, rfl, by revert a; decide⟩

theorem EncodeMatchesTable.bankWrRo (a : BitVec 2) (v : Byte) : EncodeMatchesTable.Statement (.bankWrRo a v) := by
  rintro - r ⟨⟩
  exact ⟨_, rfl, by revert a; decide⟩

theorem EncodeMatchesTable.bankWrControl (v : Byte) : EncodeMatchesTable.Statement (.bankWrControl v) := by
  rintro - r ⟨⟩
  exact ⟨_, rfl, rfl⟩

theorem EncodeMatchesTable.bankWrCmd (v : Byte) : EncodeMatchesTable.Statement (.bankWrCmd v) := by
  rintro - r ⟨⟩
  exact ⟨_, rfl, rfl⟩

theorem EncodeMatchesTable.bankWrInvalid (a : RegAddr) (v : Byte) :
    EncodeMatchesTable.Statement (.bankWrInvalid a v) := by
  rintro - r ⟨⟩
  exact ⟨_, rfl, by revert a; decide⟩

theorem EncodeMatchesTable.cmdNop : EncodeMatchesTable.Statement .cmdNop := by
  rintro - r ⟨⟩
  exact ⟨_, rfl, rfl⟩

theorem EncodeMatchesTable.cmdReset : EncodeMatchesTable.Statement .cmdReset := by
  rintro - r ⟨⟩
  exact ⟨_, rfl, rfl⟩

theorem EncodeMatchesTable.cmdFactoryReset : EncodeMatchesTable.Statement .cmdFactoryReset := by
  rintro - r ⟨⟩
  exact ⟨_, rfl, rfl⟩

theorem EncodeMatchesTable.cmdCalibrateVu : EncodeMatchesTable.Statement .cmdCalibrateVu := by
  rintro - r ⟨⟩
  exact ⟨_, rfl, rfl⟩

/-- An OPEN code's row has a full mask, whatever the code. -/
theorem rowMatches_full (f : Format) (c : Byte) : rowMatches ⟨f, c, 0xFF#8⟩ c = true := by
  have h : c &&& 0xFF#8 = c := by revert c; decide
  simp [rowMatches, h]

theorem EncodeMatchesTable.cmdTestVuLeft : EncodeMatchesTable.Statement .cmdTestVuLeft := by
  rintro - r ⟨⟩
  exact ⟨_, rfl, rowMatches_full _ _⟩

theorem EncodeMatchesTable.cmdTestVuRight : EncodeMatchesTable.Statement .cmdTestVuRight := by
  rintro - r ⟨⟩
  exact ⟨_, rfl, rowMatches_full _ _⟩

theorem EncodeMatchesTable.cmdTestVuBoth : EncodeMatchesTable.Statement .cmdTestVuBoth := by
  rintro - r ⟨⟩
  exact ⟨_, rfl, rowMatches_full _ _⟩

theorem EncodeMatchesTable.cmdTestBacklight : EncodeMatchesTable.Statement .cmdTestBacklight := by
  rintro - r ⟨⟩
  exact ⟨_, rfl, rowMatches_full _ _⟩

theorem EncodeMatchesTable.cmdTestTapeMotor : EncodeMatchesTable.Statement .cmdTestTapeMotor := by
  rintro - r ⟨⟩
  exact ⟨_, rfl, rowMatches_full _ _⟩

theorem EncodeMatchesTable.cmdTestAll : EncodeMatchesTable.Statement .cmdTestAll := by
  rintro - r ⟨⟩
  exact ⟨_, rfl, rowMatches_full _ _⟩

/-- CMD_INVALID's row has no match. -/
theorem EncodeMatchesTable.cmdInvalid (c : Byte) : EncodeMatchesTable.Statement (.cmdInvalid c) := by
  rintro - r ⟨⟩

/-- TICK has no encoding. -/
theorem EncodeMatchesTable.tick : EncodeMatchesTable.Statement .tick := by
  rintro - r ⟨⟩

/-- ENC_EDGE has no encoding. -/
theorem EncodeMatchesTable.encEdge : EncodeMatchesTable.Statement .encEdge := by
  rintro - r ⟨⟩

end Sys2Proof.Laws
end

