-- ==== Sys2Proof/Laws/Tick.lean ====
section
/-! SUPPORT. The laws of the tick's phases and of the encoder interrupt: the cells each phase changes and its frame. -/
namespace Sys2Proof.Machine

/-! Debounce. -/

@[simp] theorem commitChannels_bank (t : Millis) (s : State) : (commitChannels t s).bank = s.bank := rfl

@[simp] theorem cell_commitChannels (t : Millis) (s : State) (a : RegAddr) :
    (commitChannels t s).cell a = s.cell a := rfl

theorem stable_commitChannels (t : Millis) (s : State) (i : Channel) :
    (commitChannels t s).stable[i] = if commits t s i then s.pins.raw[i] else s.stable[i] := by
  simp [commitChannels]

theorem lastChange_commitChannels (t : Millis) (s : State) (i : Channel) :
    (commitChannels t s).lastChange[i] = if commits t s i then t else s.lastChange[i] := by
  simp [commitChannels]

theorem commits_iff (t : Millis) (s : State) (i : Channel) :
    commits t s i = true ↔
      s.pins.raw[i] ≠ s.stable[i] ∧ (s.cell 0x71#7).setWidth 32 ≤ t - s.lastChange[i] := by
  rw [commits, Bool.and_eq_true, bne_iff_ne, decide_eq_true_iff]
  rfl

/-- The publication of the inputs changes nothing outside the bank (R98). -/
theorem publishInputs_frame (c : BitVec 12) (s : State) :
    publishInputs c s = { s with bank := (publishInputs c s).bank } := by
  unfold publishInputs
  extract_lets s1 s2 s3 s4
  have h3 : s3 = { s with bank := s3.bank } := by
    simp only [s3]
    split_ifs <;> rfl
  have h4 : s4 = { s with bank := s4.bank } := by
    simp only [s4]
    rw [h3]
    rfl
  rw [h4]
  rfl

/-- What the publication of the inputs changes in the bank (R98). -/
theorem cell_publishInputs (c : BitVec 12) (s : State) (a : RegAddr) :
    (publishInputs c s).cell a =
      if a = 0x50#7 then inputsLow s.stable
      else if a = 0x51#7 then inputsHigh s.stable
      else if a = 0x52#7 then s.cell 0x52#7 ||| inputsLow c
      else if a = 0x53#7 then s.cell 0x53#7 ||| inputsHigh c
      else if a = 0x11#7 ∧ (s.cell 0x52#7 ||| inputsLow c ≠ 0#8 ∨ s.cell 0x53#7 ||| inputsHigh c ≠ 0#8)
        then setBit (s.cell 0x11#7) 5 true
      else s.cell a := by
  unfold publishInputs
  extract_lets s1 s2 s3 s4
  have hlow : s2.cell 0x52#7 = s.cell 0x52#7 ||| inputsLow c := by simp [s2, s1]
  have hhigh : s2.cell 0x53#7 = s.cell 0x53#7 ||| inputsHigh c := by simp [s2, s1]
  by_cases h : s.cell 0x52#7 ||| inputsLow c ≠ 0#8 ∨ s.cell 0x53#7 ||| inputsHigh c ≠ 0#8
  · have h3 : s3 = s2.setStatus .inputChanged true := if_pos (by rw [hlow, hhigh]; exact h)
    generalize hl : s.cell 0x52#7 ||| inputsLow c = l at h
    generalize hr : s.cell 0x53#7 ||| inputsHigh c = r at h
    simp only [s4, h3, s2, s1, hl]
    simp [hr]
    grind
  · have h3 : s3 = s2 := if_neg (by rw [hlow, hhigh]; exact h)
    generalize hl : s.cell 0x52#7 ||| inputsLow c = l at h
    generalize hr : s.cell 0x53#7 ||| inputsHigh c = r at h
    simp only [s4, h3, s2, s1, hl]
    simp [hr]
    grind

/-! Encoder. -/

/-- Outside the bank the publication of the encoder zeroes the accumulator and changes nothing else (R102). -/
theorem encoderPublication_frame (s : State) :
    encoderPublication s = { s with bank := (encoderPublication s).bank, deltaAccum := 0#8 } := by
  unfold encoderPublication
  extract_lets p d s1 s2 s3 s4
  split_ifs <;> rfl

/-- What the publication of the encoder changes in the bank (R102). -/
theorem cell_encoderPublication (s : State) (a : RegAddr) :
    (encoderPublication s).cell a =
      if a = 0x60#7 then posLow s.position
      else if a = 0x61#7 then posHigh s.position
      else if a = 0x62#7 then s.deltaAccum
      else if a = 0x11#7 ∧ s.deltaAccum ≠ 0#8 then setBit (s.cell 0x11#7) 6 true
      else s.cell a := by
  unfold encoderPublication
  extract_lets p d s1 s2 s3 s4
  by_cases h : d ≠ 0#8
  · rw [if_pos h]
    have h : s.deltaAccum ≠ 0#8 := h
    simp [s4, s3, s2, s1, p, d, h]
    grind
  · rw [if_neg h]
    have h : s.deltaAccum = 0#8 := not_not.mp h
    simp [s4, s3, s2, s1, p, d, h]
    grind

/-! Button. -/

/-- Outside the bank the button phase changes only the button's state (R105). -/
theorem buttonPhase_frame (t : Millis) (s : State) :
    buttonPhase t s = { s with
      bank := (buttonPhase t s).bank
      button := (buttonPhase t s).button
      pressTime := (buttonPhase t s).pressTime
      lastRelease := (buttonPhase t s).lastRelease } := by
  unfold buttonPhase classifyButton
  extract_lets s1
  have h : s1 = { s with bank := s1.bank, button := s1.button, pressTime := s1.pressTime, lastRelease := s1.lastRelease } := by
    simp only [s1]
    split <;> split_ifs <;> rfl
  rw [h]
  rfl

/-- The button phase changes no cell but 0x63 and STATUS (R105, R106). -/
theorem cell_buttonPhase (t : Millis) (s : State) (a : RegAddr) (h11 : a ≠ 0x11#7) :
    (buttonPhase t s).cell a = if a = 0x63#7 then buttonCode (buttonPhase t s).button else s.cell a := by
  unfold buttonPhase classifyButton
  extract_lets s1
  have h : s1.cell a = s.cell a := by
    simp only [s1]
    split <;> split_ifs <;> simp [buttonPress, buttonRelease, h11]
  simp [h]

/-- The button phase changes no bit of STATUS but bit 7 (R105). -/
theorem status_buttonPhase (t : Millis) (s : State) (k : Nat) (hk : k ≠ 7) :
    ((buttonPhase t s).cell 0x11#7).getLsbD k = (s.cell 0x11#7).getLsbD k := by
  unfold buttonPhase classifyButton
  extract_lets s1
  have h : (s1.cell 0x11#7).getLsbD k = (s.cell 0x11#7).getLsbD k := by
    simp only [s1]
    split <;> split_ifs <;> simp [buttonPress, buttonRelease, hk]
  simpa using h

/-! Output. -/

/-- Outside the bank the Output Engine changes only the duties (R113). -/
theorem outputPhase_frame (s : State) :
    outputPhase s = { s with bank := (outputPhase s).bank, duty := (outputPhase s).duty } := rfl

/-- The Output Engine changes no cell but STATUS, and of it bits 2, 3 and 4 (R109 to R111). -/
theorem cell_outputPhase (s : State) (a : RegAddr) :
    (outputPhase s).cell a =
      if a = 0x11#7 then
        setBit (setBit (setBit (s.cell 0x11#7) 2 (groupOn s .vuEnable 0x22#7)) 3 (groupOn s .backlightEnable 0x31#7)) 4
          (tapeDrive (groupOn s .tapeEnable 0x42#7) (tapeDirectionOf (s.cell 0x41#7)) (s.cell 0x40#7)).2.2
      else s.cell a := by
  rcases eq_or_ne a 0x11#7 with rfl | h
  · simp [outputPhase, vuPhase, backlightPhase, tapePhase, groupOn]
  · simp [outputPhase, vuPhase, backlightPhase, tapePhase, h]

/-- The duties the Output Engine drives (R109 to R111). -/
theorem duty_outputPhase (s : State) :
    (outputPhase s).duty =
      let vu := groupOn s .vuEnable 0x22#7
      let drive := tapeDrive (groupOn s .tapeEnable 0x42#7) (tapeDirectionOf (s.cell 0x41#7)) (s.cell 0x40#7)
      { vuLA := if vu then s.cell 0x20#7 else 0#8, vuLB := 0#8
        vuRA := if vu then s.cell 0x21#7 else 0#8, vuRB := 0#8
        blA := if groupOn s .backlightEnable 0x31#7 then s.cell 0x30#7 else 0#8, blB := 0#8
        tapeA := drive.1, tapeB := drive.2.1 } := by
  simp [outputPhase, vuPhase, backlightPhase, tapePhase, groupOn]

end Sys2Proof.Machine
end

