-- ==== Sys2Proof/Tests/Slice0.lean ====
section
/-! SUPPORT. The model's own tests. Each expected result is the spec's: the word written out from 30_encoding.md, or a
vector of 95_test_vectors.md named in the comment. Each statement that has hypotheses has its witness at the end. -/
namespace Sys2Proof.Tests

open Sys2Proof.Machine Sys2Proof.Safety

/-! ## States to test on -/

/-- PowerOn with the premises of 95_test_vectors.md: all contacts open, the button released, A = B = 0,
INIT_PREV_QUAD = 0. -/
def bench : State := { State.reset with prevQuad := 0#2, pins := ⟨0xFFF#12, false, false, true⟩ }

/-- `bench` with cells changed. -/
def benchWith (cells : List (RegAddr × Byte)) : State := cells.foldl (fun s c => s.setCell c.1 c.2) bench

/-- `bench` at a time. -/
def benchAt (t : Millis) : State := { bench with now := t }

/-- The next state, if there is one. -/
def stateOf (o : Host.Outcome State Fault Refusal) : Option State :=
  match o with
  | .next t => some t
  | .fault _ => none
  | .refused _ => none

/-- The refusal, if there is one. -/
def refusalOf (o : Host.Outcome State Fault Refusal) : Option Refusal :=
  match o with
  | .next _ => none
  | .fault _ => none
  | .refused r => some r

/-- What an operation leaves in some cells, and the pointer. -/
def seen (o : Host.Outcome State Fault Refusal) (cells : List RegAddr) : Option (List Byte × Byte) :=
  (stateOf o).map (fun t => (cells.map t.cell, t.ptr))

/-- What a read returns, and what it leaves in some cells, and the pointer. -/
def readSeen (o : Host.Outcome State Fault Refusal) (cells : List RegAddr) : Option (List Byte × List Byte × Byte) :=
  (stateOf o).map (fun t => (t.dataOut, cells.map t.cell, t.ptr))

/-! ## Well-formedness: an ill-formed term for each check -/

theorem test_wf_read_of_no_byte : (Instr.i2cRead 0).wellFormed = false := by decide
theorem test_wf_plain_read_at_52 : (Instr.bankRd 0x52#7).wellFormed = false := by decide
theorem test_wf_plain_read_at_53 : (Instr.bankRd 0x53#7).wellFormed = false := by decide
theorem test_wf_plain_read_at_62 : (Instr.bankRd 0x62#7).wellFormed = false := by decide
theorem test_wf_plain_write_at_03 : (Instr.bankWr 0x03#7 0x00#8).wellFormed = false := by decide
theorem test_wf_plain_write_at_10 : (Instr.bankWr 0x10#7 0x00#8).wellFormed = false := by decide
theorem test_wf_invalid_write_at_F0 : (Instr.bankWrInvalid 0x70#7 0x00#8).wellFormed = false := by decide
theorem test_wf_invalid_command_00 : (Instr.cmdInvalid 0x00#8).wellFormed = false := by decide

/-! ## Decoding: codes written out from R66 to R71 -/

/-- R66: START, 0x84, REG 0x20, two bytes, STOP. -/
theorem test_decode_write : decode (.frame [0b10000100#8, 0x20#8, 0x80#8, 0x40#8]) =
    .ok (.i2cWrite 0x20#8 [0x80#8, 0x40#8]) := rfl
/-- R67: START, 0x84, STOP. -/
theorem test_decode_address_only : decode (.frame [0b10000100#8]) = .ok .i2cAddrOnly := rfl
/-- R68: START, 0x85, three bytes, STOP; what the slots hold does not count. -/
theorem test_decode_read : decode (.frame [0b10000101#8, 0xFF#8, 0x12#8, 0x00#8]) = .ok (.i2cRead 3) := rfl
/-- R70: 0x7F matches 0x00/0x80 only. -/
theorem test_decode_bank_read : decode (.readAt 0b01111111#8) = .ok (.bankRd 0x7F#7) := rfl
/-- R70: 0x52 matches 0x52/0xFF. -/
theorem test_decode_bank_read_icl : decode (.readAt 0b01010010#8) = .ok .bankRdIcl := rfl
/-- R70: 0x53 matches 0x53/0xFF. -/
theorem test_decode_bank_read_ich : decode (.readAt 0b01010011#8) = .ok .bankRdIch := rfl
/-- R70: 0x62 matches 0x62/0xFF. -/
theorem test_decode_bank_read_delta : decode (.readAt 0b01100010#8) = .ok .bankRdEdelta := rfl
/-- R70: 0x80 and 0xF0 match 0x80/0x80. -/
theorem test_decode_bank_read_outside : decode (.readAt 0b10000000#8) = .ok (.bankRdInvalid 0x00#7) ∧
    decode (.readAt 0b11110000#8) = .ok (.bankRdInvalid 0x70#7) := ⟨rfl, rfl⟩
/-- R70: 0x04 matches 0x00/0x80 only. -/
theorem test_decode_bank_write : decode (.writeAt 0b00000100#8 0xA5#8) = .ok (.bankWr 0x04#7 0xA5#8) := rfl
/-- R70: 0x02 matches 0x00/0xFC. -/
theorem test_decode_bank_write_ro : decode (.writeAt 0b00000010#8 0xA5#8) = .ok (.bankWrRo 2#2 0xA5#8) := rfl
/-- R70: 0x10 matches 0x10/0xFF. -/
theorem test_decode_bank_write_control : decode (.writeAt 0b00010000#8 0x09#8) = .ok (.bankWrControl 0x09#8) := rfl
/-- R70: 0xF0 matches 0xF0/0xFF. -/
theorem test_decode_bank_write_cmd : decode (.writeAt 0b11110000#8 0x01#8) = .ok (.bankWrCmd 0x01#8) := rfl
/-- R70: 0xF1 matches 0x80/0x80 only. -/
theorem test_decode_bank_write_outside : decode (.writeAt 0b11110001#8 0x01#8) =
    .ok (.bankWrInvalid 0x71#7 0x01#8) := rfl
/-- R71: the codes the table fixes. -/
theorem test_decode_fixed_commands : decode (.command 0b00000000#8) = .ok .cmdNop ∧
    decode (.command 0b00000001#8) = .ok .cmdReset ∧ decode (.command 0b00000010#8) = .ok .cmdFactoryReset ∧
    decode (.command 0b00010000#8) = .ok .cmdCalibrateVu ∧ decode (.command 0b01110111#8) = .ok (.cmdInvalid 0x77#8) :=
  ⟨rfl, rfl, rfl, rfl, rfl⟩
/-- R71, R9: an OPEN code is none of the fixed ones, so it decodes to its own command. -/
theorem test_decode_open_command : decode (.command Config.cmdTestVuLeft) = .ok .cmdTestVuLeft := by
  have h := fun c hc => Config.testCode_ne 0 c hc
  have h0 : Config.cmdTestVuLeft ≠ Config.cmdNop := h _ (by decide)
  have h1 : Config.cmdTestVuLeft ≠ Config.cmdReset := h _ (by decide)
  have h2 : Config.cmdTestVuLeft ≠ Config.cmdFactoryReset := h _ (by decide)
  have h3 : Config.cmdTestVuLeft ≠ Config.cmdCalibrateVu := h _ (by decide)
  have h4 : Config.cmdTestVuLeft ≠ Config.cmdShownInvalid := h _ (by decide)
  rw [decode, decodeCommand, if_neg h0, if_neg h1, if_neg h2, if_neg h3, if_neg h4, if_pos rfl]
/-- The codes that are no instruction: R116 (another address, the general call), R68 and R66. -/
theorem test_decode_rejects : decode (.frame [0x86#8, 0x00#8]) = .error (.otherAddress 0x86#8) ∧
    decode (.frame [0x00#8]) = .error (.otherAddress 0x00#8) ∧ decode (.frame [0x85#8]) = .error .zeroLengthRead ∧
    decode (.frame []) = .error .noAddressByte := ⟨rfl, rfl, rfl, rfl⟩
/-- R101, R123: the internal events. -/
theorem test_decode_events : decode .tick = .ok .tick ∧ decode .encEdge = .ok .encEdge := ⟨rfl, rfl⟩

/-- Words of the opcode table: a frame of two bytes, the first in the low bits; a read operation; the command port. -/
theorem test_table_words : decodeTableWord 16 0x2084 = some (.i2cWrite 0x20#8 []) ∧
    decodeTableWord 8 0x52 = some .bankRdIcl ∧ decodeTableWord 8 0xF0 = some (.bankWrCmd 0x00#8) ∧
    decodeTableWord 8 0x01 = some .cmdReset := by decide
/-- A placed word is the next step's instruction. -/
theorem test_placed_word_runs : seen (step (bench.withFetchWord 8 0x85)) [] = some ([], 0x01#8) := by decide

/-! ## Bank reads -/

/-- BR-4. -/
theorem test_bank_read_reserved : readSeen (exec (.bankRd 0x73#7) (benchWith [(0x73#7, 0xAA#8)])) [0x73#7] =
    some ([0xAA#8], [0xAA#8], 0x74#8) := by decide
/-- BR-14: a read of STATUS clears nothing. -/
theorem test_bank_read_status : readSeen (exec (.bankRd 0x11#7) (benchWith [(0x11#7, 0xE1#8)])) [0x11#7] =
    some ([0xE1#8], [0xE1#8], 0x12#8) := by decide
/-- BR-5: the other bitmap is not zero. -/
theorem test_bank_read_icl_keeps_flag :
    readSeen (exec .bankRdIcl (benchWith [(0x52#7, 0x05#8), (0x53#7, 0x02#8), (0x11#7, 0x21#8)])) [0x52#7, 0x11#7] =
    some ([0x05#8], [0x00#8, 0x21#8], 0x53#8) := by decide
/-- BR-8: the clear test runs although the bitmap was zero. -/
theorem test_bank_read_icl_clears_flag : readSeen (exec .bankRdIcl (benchWith [(0x11#7, 0x21#8)])) [0x11#7] =
    some ([0x00#8], [0x01#8], 0x53#8) := by decide
/-- BR-7. -/
theorem test_bank_read_ich_clears_flag :
    readSeen (exec .bankRdIch (benchWith [(0x53#7, 0x01#8), (0x11#7, 0x21#8)])) [0x53#7, 0x11#7] =
    some ([0x01#8], [0x00#8, 0x01#8], 0x54#8) := by decide
/-- The example of R81. -/
theorem test_bank_read_ich_keeps_flag :
    readSeen (exec .bankRdIch (benchWith [(0x52#7, 0x01#8), (0x53#7, 0x08#8), (0x11#7, 0x21#8)])) [0x53#7, 0x11#7] =
    some ([0x08#8], [0x00#8, 0x21#8], 0x54#8) := by decide
/-- BR-9: the delta is kept. -/
theorem test_bank_read_delta :
    readSeen (exec .bankRdEdelta (benchWith [(0x62#7, 0xFE#8), (0x11#7, 0x41#8)])) [0x62#7, 0x11#7] =
    some ([0xFE#8], [0xFE#8, 0x01#8], 0x63#8) := by decide
/-- BR-12: a read at 0xF0. -/
theorem test_bank_read_at_port : readSeen (exec (.bankRdInvalid 0x70#7) bench) [0x12#7] =
    some ([0xFF#8], [0x02#8], 0xF1#8) := by decide
/-- BR-13: the bitmap accumulates; the pointer wraps. -/
theorem test_bank_read_at_FF : readSeen (exec (.bankRdInvalid 0x7F#7) (benchWith [(0x12#7, 0x04#8)])) [0x12#7] =
    some ([0xFF#8], [0x06#8], 0x00#8) := by decide

/-! ## Bank writes -/

/-- BW-2: STATUS takes a byte. -/
theorem test_bank_write_status : seen (exec (.bankWr 0x11#7 0xFF#8) bench) [0x11#7] = some ([0xFF#8], 0x12#8) := by
  decide
/-- BW-3: a host clears ERROR. -/
theorem test_bank_write_error : seen (exec (.bankWr 0x12#7 0x00#8) (benchWith [(0x12#7, 0x07#8)])) [0x12#7] =
    some ([0x00#8], 0x13#8) := by decide
/-- BW-5. -/
theorem test_bank_write_identity : seen (exec (.bankWrRo 1#2 0x02#8) bench) [0x01#7, 0x12#7] =
    some ([0x01#8, 0x02#8], 0x02#8) := by decide
/-- BW-8: RESET_ENCODER; the quadrature value is kept. -/
theorem test_bank_write_reset_encoder :
    (stateOf (exec (.bankWrControl 0x0B#8)
      { benchWith [(0x60#7, 0x25#8), (0x62#7, 0x05#8)] with position := 37#16, deltaAccum := 5#8, prevQuad := 1#2 })).map
      (fun t => ([0x10#7, 0x60#7, 0x61#7, 0x62#7].map t.cell, t.position, t.deltaAccum, t.prevQuad)) =
    some ([0x09#8, 0x00#8, 0x00#8, 0x00#8], 0#16, 0#8, 1#2) := by decide
/-- BW-9: CLEAR_INPUTS. -/
theorem test_bank_write_clear_inputs :
    seen (exec (.bankWrControl 0x04#8) (benchWith [(0x52#7, 0x10#8), (0x11#7, 0x21#8)])) [0x52#7, 0x11#7, 0x10#7] =
    some ([0x00#8, 0x01#8, 0x00#8], 0x11#8) := by decide
/-- BW-11: SAVE_CONFIG and LOAD_CONFIG self-clear. -/
theorem test_bank_write_save_load : seen (exec (.bankWrControl 0xC1#8) bench) [0x10#7] = some ([0x01#8], 0x11#8) := by
  decide
/-- CM-4 and the first row of scenario 6: the command port. -/
theorem test_bank_write_command : seen (exec (.bankWrCmd 0x77#8) bench) [0x12#7] = some ([0x04#8], 0xF1#8) := by decide
/-- BW-6. -/
theorem test_bank_write_outside : seen (exec (.bankWrInvalid 0x00#7 0x01#8) bench) [0x12#7, 0x00#7] =
    some ([0x02#8, 0x52#8], 0x81#8) := by decide

/-! ## Commands -/

/-- CM-1. -/
theorem test_command_nop : stateOf (exec .cmdNop bench) = some bench := by decide
/-- CM-2: the bank is reset, the private position is not. -/
theorem test_command_reset :
    (stateOf (exec .cmdReset { benchWith [(0x20#7, 0x80#8), (0x12#7, 0x06#8)] with position := 9#16 })).map
      (fun t => ([0x20#7, 0x12#7, 0x71#7].map t.cell, t.position)) = some ([0x00#8, 0x00#8, 0x32#8], 9#16) := by decide
/-- CM-3. -/
theorem test_command_accepted : stateOf (exec .cmdFactoryReset bench) = some bench ∧
    stateOf (exec .cmdCalibrateVu bench) = some bench ∧ stateOf (exec .cmdTestAll bench) = some bench := by decide
/-- R94: the other TEST commands are accepted too. -/
theorem test_command_tests : stateOf (exec .cmdTestVuLeft bench) = some bench ∧
    stateOf (exec .cmdTestVuRight bench) = some bench ∧ stateOf (exec .cmdTestVuBoth bench) = some bench ∧
    stateOf (exec .cmdTestBacklight bench) = some bench ∧ stateOf (exec .cmdTestTapeMotor bench) = some bench := by
  decide
/-- CM-4. -/
theorem test_command_invalid : seen (exec (.cmdInvalid 0x77#8) bench) [0x12#7] = some ([0x04#8], 0x00#8) := by decide

/-! ## Transactions -/

/-- IC-3: `84 7E 01 02 03`. -/
theorem test_write_past_the_bank :
    seen (runCode (.frame [0x84#8, 0x7E#8, 0x01#8, 0x02#8, 0x03#8]) bench) [0x7E#7, 0x7F#7, 0x12#7] =
    some ([0x01#8, 0x02#8, 0x02#8], 0x81#8) := by decide
/-- IC-7: 33 data bytes, REG among them. -/
theorem test_write_overflow :
    seen (exec (.i2cWrite 0x20#8 ((List.range 32).map (fun k => BitVec.ofNat 8 (k + 1)))) bench)
      [0x12#7, 0x20#7, 0x3E#7, 0x3F#7] = some ([0x01#8, 0x01#8, 0x1F#8, 0x00#8], 0x3F#8) := by decide
/-- IC-1. -/
theorem test_address_only : stateOf (runCode (.frame [0x84#8]) { bench with ptr := 0x20#8 }) =
    some { bench with ptr := 0x20#8 } := by decide
/-- IC-10. -/
theorem test_read_past_the_bank :
    readSeen (exec (.i2cRead 3) { benchWith [(0x7E#7, 0x07#8), (0x7F#7, 0x08#8)] with ptr := 0x7E#8 }) [0x12#7] =
    some ([0x07#8, 0x08#8, 0xFF#8], [0x02#8], 0x81#8) := by decide
/-- IC-9: 33 bytes; the last one is a draw. -/
theorem test_read_overflow :
    (stateOf (exec (.i2cRead 33) bench)).map
      (fun t => (t.dataOut.take 4, t.dataOut.length, t.cell 0x12#7, t.ptr, t.draws)) =
    some ([0x52#8, 0x01#8, 0x00#8, 0x00#8], 33, 0x01#8, 0x20#8, 1) := by decide
/-- IC-15. -/
theorem test_other_address : stateOf (runCode (.frame [0x86#8, 0x00#8]) bench) = some bench := by decide

/-! ## The tick -/

/-- TK-1. -/
theorem test_tick_not_enabled : refusalOf (exec .tick (benchAt 9#32)) = some .tickNotEnabled := by decide
/-- TK-4. -/
theorem test_tick_status_error : seen (exec .tick { benchWith [(0x12#7, 0x04#8)] with now := 10#32 }) [0x11#7] =
    some ([0x03#8], 0x00#8) := by decide +kernel
/-- R124's formula at a reserved bit of ERROR alone (log 37). -/
theorem test_tick_status_error_reserved :
    seen (exec .tick { benchWith [(0x12#7, 0x80#8)] with now := 10#32 }) [0x11#7, 0x12#7] =
      some ([0x03#8, 0x80#8], 0x00#8) := by decide +kernel
/-- DB-11: channels 1 and 12 commit. -/
theorem test_tick_inputs :
    seen (exec .tick { benchAt 110#32 with pins := ⟨0x7FE#12, false, false, true⟩ })
      [0x50#7, 0x51#7, 0x52#7, 0x53#7, 0x11#7] =
    some ([0xFE#8, 0x07#8, 0x01#8, 0x08#8, 0x21#8], 0x00#8) := by decide +kernel
/-- DB-7: the wrapped difference. -/
theorem test_commit_wraps :
    commits 0x00000030#32 { bench with pins := ⟨0xFFE#12, false, false, true⟩,
                                       lastChange := Vector.replicate 12 0xFFFFFFF0#32 } 0 = true := by decide
/-- DB-8. -/
theorem test_commit_too_early :
    commits 354#32 { benchWith [(0x71#7, 0xFF#8)] with pins := ⟨0xFFE#12, false, false, true⟩,
                                                       lastChange := Vector.replicate 12 100#32 } 0 = false := by decide
/-- EP-2. -/
theorem test_tick_encoder :
    (stateOf (exec .tick { benchAt 10#32 with position := 0xFFFE#16, deltaAccum := 0xFE#8 })).map
      (fun t => ([0x60#7, 0x61#7, 0x62#7, 0x11#7].map t.cell, t.deltaAccum)) =
    some ([0xFE#8, 0xFF#8, 0xFE#8, 0x41#8], 0#8) := by decide +kernel
/-- BT-3: a press 150 ms after a release. -/
theorem test_button_double_click :
    (stateOf (exec .tick { benchAt 1200#32 with pins := ⟨0xFFF#12, false, false, false⟩, lastRelease := 1050#32 })).map
      (fun t => (t.button, t.pressTime, t.cell 0x63#7, t.cell 0x11#7)) =
    some (.doubleClick, 1200#32, 0x03#8, 0x81#8) := by decide
/-- BT-6: held for 1000 ms. -/
theorem test_button_held :
    (stateOf (exec .tick { benchAt 2000#32 with
        pins := ⟨0xFFF#12, false, false, false⟩, button := .pressed, pressTime := 1000#32 })).map
      (fun t => (t.button, t.cell 0x63#7)) = some (.held, 0x02#8) := by decide
/-- OV-1 and scenario 2. -/
theorem test_output_vu :
    (stateOf (exec .tick { benchWith [(0x10#7, 0x09#8), (0x20#7, 0x80#8), (0x21#7, 0x40#8)] with now := 10#32 })).map
      (fun t => (t.duty, t.cell 0x11#7)) = some (⟨128#8, 0#8, 64#8, 0#8, 0#8, 0#8, 0#8, 0#8⟩, 0x05#8) := by decide
/-- OB-4. -/
theorem test_output_backlight :
    (stateOf (exec .tick { benchWith [(0x10#7, 0x11#8), (0x31#7, 0x02#8), (0x30#7, 0xFF#8)] with now := 10#32 })).map
      (fun t => (t.duty.blA, t.duty.blB, t.cell 0x11#7)) = some (255#8, 0#8, 0x09#8) := by decide
/-- OT-3, and the brake of OT-4. -/
theorem test_output_tape : tapeDrive true (tapeDirectionOf 0x02#8) 0x40#8 = (0#8, 64#8, true) ∧
    tapeDrive true (tapeDirectionOf 0x03#8) 0x40#8 = (255#8, 255#8, false) := by decide

/-! ## The encoder and the environment -/

/-- E-S1 and E-W1: the delta saturates, the position wraps. -/
theorem test_edge_limits :
    (stateOf (exec .encEdge { bench with encIrqPending := true, position := 0x7FFF#16, deltaAccum := 127#8,
                                         pins := ⟨0xFFF#12, true, false, true⟩ })).map
      (fun t => (t.position, t.deltaAccum, t.prevQuad, t.encIrqPending)) =
    some (0x8000#16, 127#8, 2#2, false) := by decide
/-- E-C1: both levels changed before the interrupt ran. -/
theorem test_edge_merged :
    (stateOf (exec .encEdge { bench with encIrqPending := true, pins := ⟨0xFFF#12, true, true, true⟩ })).map
      (fun t => (t.position, t.deltaAccum, t.prevQuad)) = some (0#16, 0#8, 3#2) := by decide
/-- R101: ENC_EDGE is enabled only when it is pending. -/
theorem test_edge_not_pending : refusalOf (exec .encEdge bench) = some .edgeNotPending := by decide
/-- EN-1. -/
theorem test_pin_sets_pending : (envPin .encA true bench).encIrqPending = true := by decide
/-- E-C2. -/
theorem test_pin_same_level : (envPin .encA false bench).encIrqPending = false := by decide
/-- EN-2, its first millisecond. -/
theorem test_clock : (stateOf (envTime { bench with now := 41#32 })).map (fun t => t.now) = some 42#32 := by decide

/-! ## Witnesses: a state and operands that meet each statement's hypotheses

A clause whose condition is on an address has its boundary values. -/

theorem test_witness_DecodeEncodeRoundTrip : (Instr.i2cRead 1).wellFormed = true ∧
    (Instr.bankWr 0x04#7 0xFF#8).wellFormed = true ∧ (Instr.bankWr 0x7F#7 0x00#8).wellFormed = true ∧
    (Instr.bankWrInvalid 0x71#7 0x00#8).wellFormed = true ∧ (Instr.bankRd 0x54#7).wellFormed = true := by decide

theorem test_witness_DecodedCodeIsEncoding : decode (.writeAt 0x7F#8 0x01#8) = .ok (.bankWr 0x7F#7 0x01#8) ∧
    decode (.frame [0x85#8, 0x55#8]) = .ok (.i2cRead 1) := ⟨rfl, rfl⟩

/-- Two rows of one table with equal masks. -/
theorem test_witness_PointerSelectsMostSpecificRow :
    (⟨.bankReadOp, 0x52#8, 0xFF#8⟩ : TableRow) ∈ readRows ∧ (⟨.bankReadOp, 0x53#8, 0xFF#8⟩ : TableRow) ∈ readRows ∧
    (⟨.bankWriteOp, 0x00#8, 0x80#8⟩ : TableRow) ∈ writeRows ∧ (⟨.bankWriteOp, 0x80#8, 0x80#8⟩ : TableRow) ∈ writeRows := by
  decide

/-- 0x77 names no command, whatever the OPEN codes are. -/
theorem shown_invalid_not_named : 0x77#8 ∉ Config.namedCommands := by
  have h := fun k => (Config.testCode_ne k 0x77#8 (by decide)).symm
  rw [Config.mem_namedCommands]
  simp [Config.cmdNop, Config.cmdReset, Config.cmdFactoryReset, Config.cmdCalibrateVu, Config.cmdTestVuLeft,
    Config.cmdTestVuRight, Config.cmdTestVuBoth, Config.cmdTestBacklight, Config.cmdTestTapeMotor,
    Config.cmdTestAll, h]

theorem test_witness_CommandByteSelectsCommand : ∃ c, c ∉ Config.namedCommands := ⟨_, shown_invalid_not_named⟩

theorem test_witness_InvalidCommandCompletes : ∃ c, c ∉ Config.namedCommands := ⟨_, shown_invalid_not_named⟩

/-- A state with one frame pending. -/
def benchPending (e : Event) : State := { bench with pending := [e] }

theorem test_witness_StepRunsDecodedInstruction :
    (benchPending (.code (.frame [0x84#8, 0x20#8]))).pending = .code (.frame [0x84#8, 0x20#8]) :: [] ∧
    decode (.frame [0x84#8, 0x20#8]) = .ok (.i2cWrite 0x20#8 []) ∧ (Instr.i2cWrite 0x20#8 []).wellFormed = true :=
  ⟨rfl, rfl, rfl⟩

theorem test_witness_FrameElsewhereHasNoEffect :
    (benchPending (.code (.frame [0x86#8, 0x20#8]))).pending = .code (.frame (0x86#8 :: [0x20#8])) :: [] ∧
    (0x86#8 ≠ 0x84#8 ∧ 0x86#8 ≠ 0x85#8) := by decide

/-- The first clause with a frame, an enabled TICK, the clock and a pin; the second with nothing pending. -/
theorem test_witness_EnabledStepsAreTaken :
    eventEnabled (.code (.frame [0x84#8])) (benchPending (.code (.frame [0x84#8]))) = true ∧
    eventEnabled (.code .tick) { benchPending (.code .tick) with now := 10#32 } = true ∧
    eventEnabled .envTime (benchPending .envTime) = true ∧
    eventEnabled (.envPin .btn false) (benchPending (.envPin .btn false)) = true ∧ bench.pending = [] := by decide

theorem test_witness_FiveKindsOfStepAreRefused : (benchAt 9#32).now - (benchAt 9#32).lastTick < 10#32 ∧
    bench.encIrqPending = false ∧ (benchAt 0xFFFFFFFF#32).now + 1#32 = (benchAt 0xFFFFFFFF#32).lastTick := by decide

/-- The invariant holds of `bench`, and it takes a step. -/
theorem test_witness_StepKeepsInvariant : MachineInv (benchPending (.code (.frame [0x84#8]))) ∧
    step (benchPending (.code (.frame [0x84#8]))) = .next bench :=
  ⟨⟨⟨List.Pairwise.nil, fun _ h => nomatch h⟩, ⟨rfl, rfl, rfl, rfl⟩, rfl⟩, rfl⟩

/-- Each clause at the values where it meets another. -/
theorem test_witness_MemReadFollowsItsCases : (0x80#8 ≤ 0x80#8 ∧ 0x80#8 ≤ 0xFF#8) ∧ 0x7F#8 < 0x80#8 ∧
    (0x51#8 < 0x80#8 ∧ 0x51#8 ≠ 0x52#8 ∧ 0x51#8 ≠ 0x53#8 ∧ 0x51#8 ≠ 0x62#8) ∧
    (0x63#8 < 0x80#8 ∧ 0x63#8 ≠ 0x52#8 ∧ 0x63#8 ≠ 0x53#8 ∧ 0x63#8 ≠ 0x62#8) := by decide

theorem test_witness_BankReadCompletes : (Instr.bankRd 0x00#7).wellFormed = true ∧
    (Instr.bankRd 0x51#7).wellFormed = true ∧ (Instr.bankRd 0x7F#7).wellFormed = true := by decide

/-- Each clause at the values where it meets another. -/
theorem test_witness_MemWriteFollowsItsCases : 0x03#8 ≤ 0x03#8 ∧ (0x80#8 ≤ 0xEF#8 ∧ 0xEF#8 ≠ 0xF0#8) ∧
    (0x80#8 ≤ 0xF1#8 ∧ 0xF1#8 ≠ 0xF0#8) ∧ (0x04#8 ≤ 0x04#8 ∧ 0x04#8 < 0x80#8 ∧ 0x04#8 ≠ 0x10#8) ∧
    (0x04#8 ≤ 0x7F#8 ∧ 0x7F#8 < 0x80#8 ∧ 0x7F#8 ≠ 0x10#8) := by decide

theorem test_witness_BankWriteCompletes : (Instr.bankWr 0x04#7 0xFF#8).wellFormed = true ∧
    (Instr.bankWr 0x11#7 0x00#8).wellFormed = true ∧ (Instr.bankWr 0x7F#7 0x00#8).wellFormed = true := by decide

theorem test_witness_RefusedWritesComplete : 0x6F#7 ≠ 0x70#7 ∧ 0x71#7 ≠ 0x70#7 := by decide

theorem test_witness_ControlWriteCompletes : (0x02#8).getLsbD 1 = true ∧ (0xFD#8).getLsbD 1 = false ∧
    (0x04#8).getLsbD 2 = true ∧ (0xFB#8).getLsbD 2 = false := by decide

theorem test_witness_WriteFrameRunsItsBytes : (List.replicate 31 0x00#8).length ≤ 31 := by decide

theorem test_witness_LongWriteFrameOverflows : 31 < (List.replicate 32 0x00#8).length := by decide

/-- A frame that reaches neither CONTROL nor the command port. -/
theorem test_witness_WriteFrameTouchesItsCells : (∀ v, ¬ Moves 0x20#8 [0x01#8, 0x02#8] 0x10#8 v) ∧
    (∀ v, ¬ Moves 0x20#8 [0x01#8, 0x02#8] 0xF0#8 v) ∧ (∀ v, ¬ Moves 0x20#8 [0x01#8, 0x02#8] 0x22#8 v) := by
  refine ⟨?_, ?_, ?_⟩
  all_goals
    rintro v ⟨k, -, hv, hp⟩
    obtain ⟨hk, -⟩ := List.getElem?_eq_some_iff.mp hv
    have hk : k < 2 := hk
    interval_cases k <;> exact absurd hp (by decide)

theorem test_witness_ReadFrameRunsItsBytes : (1 ≤ 1 ∧ 1 ≤ 32) ∧ 1 ≤ 32 ∧ 32 ≤ 32 := by decide

theorem test_witness_LongReadFrameOverflows : 32 < 33 := by decide

theorem test_witness_ReadFrameTouchesFlagsOnly : 1 ≤ 1 := by decide

/-- The whole run of plain cells between ENCODER_BUTTON and the end of the bank, as far as one frame reaches. -/
theorem test_witness_WrittenBlockReadsBack :
    0x04 ≤ 0x64 ∧ 1 ≤ (List.replicate 28 0xA5#8).length ∧ (List.replicate 28 0xA5#8).length ≤ 31 ∧
    0x64 + (List.replicate 28 0xA5#8).length ≤ 0x80 ∧
    ∀ x ∈ [0x10, 0x11, 0x12, 0x50, 0x51, 0x52, 0x53, 0x60, 0x61, 0x62, 0x63],
      x < 0x64 ∨ 0x64 + (List.replicate 28 0xA5#8).length ≤ x := by decide

theorem test_witness_IdentityReadsBack : IdentityHolds bench := ⟨rfl, rfl, rfl, rfl⟩

theorem test_witness_ReadingBothBitmapsClearsThem : ({ bench with ptr := 0x52#8 } : State).ptr = 0x52#8 := rfl

/-- TK-2 and TK-7: a tick is enabled from the tenth millisecond on, and across the clock's wrap. -/
theorem tick_enabled_at_ten : 10#32 ≤ (benchAt 10#32).now - (benchAt 10#32).lastTick := by decide

theorem test_witness_TickCompletes : 10#32 ≤ (benchAt 10#32).now - (benchAt 10#32).lastTick ∧
    10#32 ≤ ({ benchAt 4#32 with lastTick := 0xFFFFFFFA#32 } : State).now -
      ({ benchAt 4#32 with lastTick := 0xFFFFFFFA#32 } : State).lastTick := by decide

/-- A channel that commits exactly at the debounce time, and one whose level has not changed. -/
theorem test_witness_TickDebouncesEachChannel :
    let s : State := { benchAt 50#32 with pins := ⟨0xFFE#12, false, false, true⟩ }
    10#32 ≤ s.now - s.lastTick ∧
    (s.pins.raw[(0 : Channel)] ≠ s.stable[(0 : Channel)] ∧
      (s.cell 0x71#7).setWidth 32 ≤ s.now - s.lastChange[(0 : Channel)]) ∧
    ¬ (s.pins.raw[(11 : Channel)] ≠ s.stable[(11 : Channel)] ∧
      (s.cell 0x71#7).setWidth 32 ≤ s.now - s.lastChange[(11 : Channel)]) := by decide

theorem test_witness_TickPublishesInputs : 10#32 ≤ (benchAt 10#32).now - (benchAt 10#32).lastTick :=
  tick_enabled_at_ten

theorem test_witness_TickPublishesEncoder : ∃ t, exec .tick (benchAt 10#32) = .next t := ⟨_, rfl⟩

/-- An enabled tick runs. -/
theorem tick_runs (s : State) (h : 10#32 ≤ s.now - s.lastTick) : ∃ t, exec .tick s = .next t :=
  have h : tickEnabled s = true := decide_eq_true h
  ⟨tickBody s, by simp [exec, execTick, h]⟩

/-- `bench` at a time with a button state and the button's level. -/
def benchButton (b : ButtonState) (level : Bool) : State :=
  { benchAt 2000#32 with button := b, pins := ⟨0xFFF#12, false, false, level⟩ }

/-- Each clause of the button's transitions, and of the code it publishes. -/
theorem test_witness_TickClassifiesButton :
    (∀ b level, ∃ t, exec .tick (benchButton b level) = .next t) ∧
    ((benchButton .released true).button = .released ∧ (benchButton .released true).pins.btn = true) ∧
    ((benchButton .released false).button = .released ∧ (benchButton .released false).pins.btn = false) ∧
    ((benchButton .pressed false).button = .pressed ∧ (benchButton .pressed false).pins.btn = false) ∧
    ((benchButton .held false).button = .held ∧ (benchButton .held false).pins.btn = false) ∧
    ((benchButton .doubleClick false).button = .doubleClick ∧ (benchButton .doubleClick false).pins.btn = false) ∧
    ((benchButton .held true).button ≠ .released ∧ (benchButton .held true).pins.btn = true) :=
  ⟨fun _ _ => tick_runs _ (show 10#32 ≤ 2000#32 - 0#32 by decide), ⟨rfl, rfl⟩, ⟨rfl, rfl⟩, ⟨rfl, rfl⟩, ⟨rfl, rfl⟩, ⟨rfl, rfl⟩,
    ⟨by decide, rfl⟩⟩

/-- OV-1's cells and OV-2's. -/
theorem test_witness_TickDrivesVuMeters :
    let on : State := { benchWith [(0x10#7, 0x09#8)] with now := 10#32 }
    let off : State := { benchWith [(0x10#7, 0x09#8), (0x22#7, 0xFF#8)] with now := 10#32 }
    ((∃ t, exec .tick on = .next t) ∧ (on.cell 0x10#7).getLsbD 3 = true ∧ on.cell 0x22#7 ≠ 0xFF#8) ∧
    ((∃ t, exec .tick off = .next t) ∧ ¬ ((off.cell 0x10#7).getLsbD 3 = true ∧ off.cell 0x22#7 ≠ 0xFF#8)) :=
  ⟨⟨tick_runs _ (show 10#32 ≤ 10#32 - 0#32 by decide), by decide⟩, tick_runs _ (show 10#32 ≤ 10#32 - 0#32 by decide), by decide⟩

/-- OB-1's cells and OB-2's. -/
theorem test_witness_TickDrivesBacklight :
    let on : State := { benchWith [(0x10#7, 0x11#8)] with now := 10#32 }
    let off : State := { benchWith [(0x10#7, 0x11#8), (0x31#7, 0xFF#8)] with now := 10#32 }
    ((∃ t, exec .tick on = .next t) ∧ (on.cell 0x10#7).getLsbD 4 = true ∧ on.cell 0x31#7 ≠ 0xFF#8) ∧
    ((∃ t, exec .tick off = .next t) ∧ ¬ ((off.cell 0x10#7).getLsbD 4 = true ∧ off.cell 0x31#7 ≠ 0xFF#8)) :=
  ⟨⟨tick_runs _ (show 10#32 ≤ 10#32 - 0#32 by decide), by decide⟩, tick_runs _ (show 10#32 ≤ 10#32 - 0#32 by decide), by decide⟩

/-- The tape gated on, with a direction. -/
def benchTape (direction : Byte) : State :=
  { benchWith [(0x10#7, 0x21#8), (0x40#7, 0x40#8), (0x41#7, direction)] with now := 10#32 }

/-- OT-2 to OT-5's cells, and OT-8's. -/
theorem test_witness_TickDrivesTapeMotor :
    (∀ v, ∃ t, exec .tick (benchTape v) = .next t) ∧
    (((benchTape 1#8).cell 0x10#7).getLsbD 5 = true ∧
      (benchTape 1#8).cell 0x42#7 ≠ 0xFF#8) ∧
    (benchTape 1#8).cell 0x41#7 = 0x01#8 ∧ (benchTape 2#8).cell 0x41#7 = 0x02#8 ∧
    (benchTape 3#8).cell 0x41#7 = 0x03#8 ∧ (benchTape 4#8).cell 0x41#7 ∉ [0x01#8, 0x02#8, 0x03#8] ∧
    (benchTape 0#8).cell 0x41#7 ∉ [0x01#8, 0x02#8, 0x03#8] ∧
    ¬ (((benchAt 10#32).cell 0x10#7).getLsbD 5 = true ∧ (benchAt 10#32).cell 0x42#7 ≠ 0xFF#8) :=
  ⟨fun _ => tick_runs _ (show 10#32 ≤ 10#32 - 0#32 by decide), by decide⟩

/-- Two ticks whose actuator cells agree and whose CONTROL.ENABLE, time and inputs do not. -/
theorem test_witness_OutputsDependOnActuatorCellsOnly :
    let s : State := { benchWith [(0x10#7, 0x09#8), (0x20#7, 0x80#8)] with now := 10#32 }
    let u : State := { benchWith [(0x10#7, 0x08#8), (0x20#7, 0x80#8)] with
                       now := 500#32, pins := ⟨0x000#12, true, true, false⟩ }
    (∃ t, exec .tick s = .next t) ∧ (∃ w, exec .tick u = .next w) ∧
    (∀ k, 3 ≤ k → k ≤ 5 → (s.cell 0x10#7).getLsbD k = (u.cell 0x10#7).getLsbD k) ∧
    (∀ a, a ∈ [0x20#7, 0x21#7, 0x22#7, 0x30#7, 0x31#7, 0x40#7, 0x41#7, 0x42#7] → s.cell a = u.cell a) := by
  refine ⟨⟨_, rfl⟩, ⟨_, rfl⟩, ?_, by decide⟩
  intro k h3 h5
  interval_cases k <;> decide

theorem test_witness_TickRecomputesStatusError : ∃ t, exec .tick (benchAt 10#32) = .next t := ⟨_, rfl⟩

theorem test_witness_PositionReadsBackAfterTick : 10#32 ≤ (benchAt 10#32).now - (benchAt 10#32).lastTick :=
  tick_enabled_at_ten

theorem test_witness_EncoderEdgeCompletes : ({ bench with encIrqPending := true } : State).encIrqPending = true := rfl

/-- P2's three edges: 00, 10, 11, 01, each a step of +1. -/
theorem test_witness_EdgesAccumulateDisplacement : (benchAt 10#32).deltaAccum = 0#8 ∧
    10#32 ≤ (benchAt 10#32).now - (benchAt 10#32).lastTick ∧
    (∀ k, -128 ≤ displacement (benchAt 10#32).prevQuad ([(true, false), (true, true), (false, true)].take k) ∧
      displacement (benchAt 10#32).prevQuad ([(true, false), (true, true), (false, true)].take k) ≤ 127) ∧
    displacement (benchAt 10#32).prevQuad [(true, false), (true, true), (false, true)] = 3 := by
  refine ⟨rfl, tick_enabled_at_ten, ?_, rfl⟩
  intro k
  obtain h | h : k ≤ 3 ∨ 3 < k := by omega
  · interval_cases k <;> decide
  · rw [List.take_of_length_le (by simp; omega)]
    decide

theorem test_witness_ClockAdvancesByOne : (benchPending .envTime).pending = .envTime :: [] ∧
    (benchPending .envTime).now + 1#32 ≠ (benchPending .envTime).lastTick := by decide

theorem test_witness_PinChangeIsSeen :
    (benchPending (.envPin (.input 2) false)).pending = .envPin (.input 2) false :: [] ∧ PinName.encA ≠ .input 2 := by
  decide

/-- A write past the bank, in which the host does not write ERROR: bit 1 is set by it, bit 2 stays set, and no bit from
bit 3 on is set. -/
theorem test_witness_ErrorBitsAreSticky :
    let s := benchWith [(0x12#7, 0x0C#8)]
    (∃ t, exec (.bankWrRo 0#2 0x00#8) s = .next t) ∧ ¬ HostWrites (.bankWrRo 0#2 0x00#8) 0x12#7 ∧
    ¬ RunsReset (.bankWrRo 0#2 0x00#8) ∧ (s.cell 0x12#7).getLsbD 2 = true ∧ (s.cell 0x12#7).getLsbD 3 = true :=
  ⟨⟨_, rfl⟩, not_false, not_false, by decide, by decide⟩

theorem test_witness_OnlyTickDrivesDuties : Event.code (.frame [0x84#8, 0x20#8, 0xFF#8]) ≠ .code .tick ∧
    ∃ t, runEvent (.code (.frame [0x84#8, 0x20#8, 0xFF#8])) bench = .next t := ⟨by decide, _, rfl⟩

/-- The tick moves no pointer, nor does an address-only frame. -/
theorem test_witness_PointerMovesInTransactionsOnly :
    (∀ bytes, Event.code (.frame [0x84#8]) ≠ .code (.frame (0x85#8 :: bytes))) ∧
    (∀ b bytes, Event.code (.frame [0x84#8]) ≠ .code (.frame (0x84#8 :: b :: bytes))) ∧
    (∀ p, Event.code (.frame [0x84#8]) ≠ .code (.readAt p)) ∧
    (∀ p v, Event.code (.frame [0x84#8]) ≠ .code (.writeAt p v)) ∧
    ∃ t, runEvent (.code (.frame [0x84#8])) bench = .next t := by
  refine ⟨?_, ?_, ?_, ?_, _, rfl⟩ <;> intros <;> simp

theorem test_witness_PrivateStateIsUnreachable : Instr.bankWrControl 0x02#8 ≠ .tick ∧
    Instr.bankWrControl 0x02#8 ≠ .encEdge ∧ ∃ t, exec (.bankWrControl 0x02#8) bench = .next t :=
  ⟨by decide, by decide, _, rfl⟩

/-- STATUS.INPUT_CHANGED and the bitmaps agree where an input has changed, and where none has. -/
theorem test_witness_InputChangedBitKeepsAgreeing :
    let s := benchWith [(0x52#7, 0x04#8), (0x11#7, 0x21#8)]
    InputChangedAgrees bench ∧ InputChangedAgrees s ∧ (∃ t, exec .bankRdIcl s = .next t) ∧
    ¬ HostWrites .bankRdIcl 0x11#7 ∧ ¬ HostWrites .bankRdIcl 0x52#7 ∧ ¬ HostWrites .bankRdIcl 0x53#7 := by
  refine ⟨?_, ?_, ⟨_, rfl⟩, not_false, not_false, not_false⟩ <;> unfold InputChangedAgrees <;> decide

/-- The button released, and the button held: a state of each kind that takes a step. -/
theorem test_witness_ButtonBitKeepsAgreeing :
    let s : State := { benchWith [(0x11#7, 0x81#8)] with button := .held }
    ButtonBitAgrees bench ∧ ButtonBitAgrees s ∧ (∃ t, exec .bankRdIcl s = .next t) ∧ ¬ RunsReset .bankRdIcl ∧
    ¬ HostWrites .bankRdIcl 0x11#7 := by
  refine ⟨?_, ?_, ⟨_, rfl⟩, not_false, not_false⟩ <;> unfold ButtonBitAgrees <;> decide

/-- BW-7's state before the tick, and PowerOn. -/
theorem test_witness_InputHighBitsStayClear : InputHighBitsClear bench ∧
    (∃ t, exec .bankRdIcl bench = .next t) ∧ ¬ HostWrites .bankRdIcl 0x51#7 ∧
    ∃ t, exec .tick { benchWith [(0x51#7, 0xFF#8)] with now := 10#32 } = .next t :=
  ⟨rfl, ⟨_, rfl⟩, not_false, ⟨_, rfl⟩⟩

theorem test_witness_CanonicalBanksAreDetermined :
    Memory.wf [(0x10, 0x09#8), (0x20, 0x80#8)] ∧
    ∀ a, a < 128 → Memory.read [(0x10, 0x09#8), (0x20, 0x80#8)] a = Memory.read [(0x10, 0x09#8), (0x20, 0x80#8)] a :=
  ⟨by decide, fun _ _ => rfl⟩

end Sys2Proof.Tests
end

section
/-! The whole bank read and write operations (40_register_bank.md, R78 and R84): an equation for each case of the
operation, the frame of one stored cell, and the two obligations assembled from them. -/
namespace Sys2Proof.Machine

open Sys2Proof.Safety

/-- Storing a cell touches that cell and nothing else. -/
theorem onlyCells_setCell (s : State) (a : RegAddr) (v : Byte) : OnlyCells s (s.setCell a v) [a] := by
  refine ⟨rfl, fun b hb => ?_⟩
  rw [State.cell_setCell, if_neg (List.ne_of_not_mem_cons hb)]

/-! Reads. -/

theorem memRead_outside (p : Byte) (s : State) (h : 0x80#8 ≤ p) : memRead p s = readOutside s := if_pos h

theorem memRead_plain (p : Byte) (s : State) (h80 : p < 0x80#8) (h52 : p ≠ 0x52#8) (h53 : p ≠ 0x53#8)
    (h62 : p ≠ 0x62#8) : memRead p s = readPlain (cellAddr p) s := by
  unfold memRead
  rw [if_neg (by simpa using h80), if_neg h52, if_neg h53, if_neg h62]

/-- A read from 0x80 on raises INVALID_REG and touches ERROR alone (R83). -/
theorem onlyCells_readOutside (s : State) : OnlyCells s (readOutside s).2 [0x12#7] := onlyCells_setCell _ _ _

/-- A read of a changed bitmap touches STATUS and the bitmap alone (R80, R81). -/
theorem onlyCells_readChanged (a : RegAddr) (s : State) : OnlyCells s (readChanged a s).2 [0x11#7, a] := by
  refine ⟨clearInputChangedIfZero_frame _, fun b hb => ?_⟩
  obtain ⟨h11, ha⟩ : b ≠ 0x11#7 ∧ b ≠ a := by simpa using hb
  simp [readChanged, cell_clearInputChangedIfZero, h11, ha]

/-- A read of the delta touches STATUS alone (R82). -/
theorem onlyCells_readEncoderDelta (s : State) : OnlyCells s (readEncoderDelta s).2 [0x11#7] := onlyCells_setCell _ _ _

/-- Settles O13: one clause for each case of the read operation. -/
theorem memReadFollowsItsCases : Obligations.MemReadFollowsItsCases := by
  unfold Obligations.MemReadFollowsItsCases
  intro p s
  refine ⟨fun h80 => ?outside, fun h80 => ?value, ?low, ?high, ?delta, fun h80 h52 h53 h62 => ?plain⟩
  case outside =>
    rw [memRead_outside p s h80]
    exact ⟨rfl, onlyCells_readOutside s, by simp [readOutside, withError_invalidReg]⟩
  case value => exact (memRead_value p s).trans (if_neg (by simpa using h80))
  case low =>
    rintro rfl
    exact ⟨onlyCells_readChanged 0x52#7 s, by simp [cell_memRead], by simp [cell_memRead]⟩
  case high =>
    rintro rfl
    exact ⟨onlyCells_readChanged 0x53#7 s, by simp [cell_memRead], by simp [cell_memRead]⟩
  case delta =>
    rintro rfl
    exact ⟨onlyCells_readEncoderDelta s, by simp [cell_memRead]⟩
  case plain => rw [memRead_plain p s h80 h52 h53 h62, readPlain]

/-! Writes. -/

theorem memWrite_refused (p v : Byte) (s : State) (h : p ≤ 0x03#8 ∨ 0x80#8 ≤ p ∧ p ≠ 0xF0#8) :
    memWrite p v s = writeRefused s := by
  rcases memWrite_cases p v s with ⟨-, hw⟩ | ⟨rfl, -⟩ | ⟨rfl, -⟩ | ⟨hp, -⟩
  · exact hw
  · exact absurd h (by decide)
  · exact absurd h (by decide)
  · bv_omega

theorem memWrite_cmdPort (v : Byte) (s : State) : memWrite 0xF0#8 v s = executeCommand v s := rfl

theorem memWrite_control (v : Byte) (s : State) : memWrite 0x10#8 v s = writeControl v s := rfl

theorem memWrite_plain (p v : Byte) (s : State) (h04 : 0x04#8 ≤ p) (h80 : p < 0x80#8) (h10 : p ≠ 0x10#8) :
    memWrite p v s = writePlain (cellAddr p) v s := by
  rcases memWrite_cases p v s with ⟨hp, -⟩ | ⟨rfl, -⟩ | ⟨rfl, -⟩ | ⟨-, hw⟩
  · bv_omega
  · exact absurd h80 (by decide)
  · exact absurd rfl h10
  · exact hw

/-- Settles O18: one clause for each case of the write operation. -/
theorem memWriteFollowsItsCases : Obligations.MemWriteFollowsItsCases := by
  unfold Obligations.MemWriteFollowsItsCases
  intro p v s
  refine ⟨fun h => ?refused, ?command, ?control, fun h04 h80 h10 => ?plain⟩
  case refused =>
    rw [memWrite_refused p v s h]
    exact ⟨rfl, onlyCells_setCell _ _ _, by simp [writeRefused, withError_invalidReg]⟩
  case command =>
    rintro rfl
    exact memWrite_cmdPort v s
  case control =>
    rintro rfl
    exact memWrite_control v s
  case plain =>
    rw [memWrite_plain p v s h04 h80 h10]
    exact ⟨rfl, onlyCells_setCell _ _ _, by simp [writePlain, cellAddr]⟩

end Sys2Proof.Machine
end

section
/-! The phases of a tick around the Input Engine (45_main_tick.md section 1; 42_input_engine.md): what the debounce phase
leaves alone, and how the state after a tick reads in terms of the state after its Input Engine phase. -/
namespace Sys2Proof.Machine

/-- Outside the bank the debounce phase changes only the stable bitmap and the commit times (R97, R98). -/
theorem debouncePhase_frame (t : Millis) (s : State) :
    debouncePhase t s = { s with
      bank := (debouncePhase t s).bank
      stable := (debouncePhase t s).stable
      lastChange := (debouncePhase t s).lastChange } := by
  unfold debouncePhase
  rw [publishInputs_frame]
  rfl

/-- The debounce phase changes no bit of STATUS but bit 5 (R98). -/
theorem status_debouncePhase (t : Millis) (s : State) (k : Nat) (hk : k ≠ 5) :
    ((debouncePhase t s).cell 0x11#7).getLsbD k = (s.cell 0x11#7).getLsbD k := by
  unfold debouncePhase
  rw [cell_publishInputs, if_neg (by decide), if_neg (by decide), if_neg (by decide), if_neg (by decide)]
  split_ifs
  · simp [hk]
  · rfl

/-- The publication of the encoder changes no bit of STATUS but bit 6, which it sets for a delta that is not zero
(R102). -/
theorem status_encoderPublication (s : State) (k : Nat) :
    ((encoderPublication s).cell 0x11#7).getLsbD k =
      ((s.cell 0x11#7).getLsbD k || (decide (k = 6) && s.deltaAccum != 0#8)) := by
  rw [cell_encoderPublication]
  by_cases hd : s.deltaAccum = 0#8
  · simp [hd]
  · by_cases hk : k = 6 <;> simp [hd, hk]

/-- The state whose time of the last tick is the present one, in which a tick's phases begin (R123). -/
def State.atTick (s : State) : State := { s with lastTick := s.now }

@[simp] theorem State.cell_atTick (s : State) (a : RegAddr) : s.atTick.cell a = s.cell a := rfl

theorem tickBody_eq (s : State) :
    tickBody s = updateStatusError (outputPhase (inputPhase s.now s.atTick)) := rfl

theorem inputPhase_eq (t : Millis) (s : State) :
    inputPhase t s = buttonPhase t (encoderPublication (debouncePhase t s)) := rfl

/-- A tick that runs gives the state after the main loop body (R123). -/
theorem eq_tickBody_of_exec {s t : State} (h : exec .tick s = .next t) : t = tickBody s := by
  change execTick s = .next t at h
  unfold execTick at h
  split at h
  · exact (Host.Outcome.next.inj h).symm
  · cases h

theorem updateStatusError_frame (s : State) : updateStatusError s = { s with bank := (updateStatusError s).bank } := rfl

/-- After the Input Engine phase a tick changes nothing outside the bank but the duties (R123). -/
theorem tickBody_frame (s : State) :
    tickBody s = { inputPhase s.now s.atTick with bank := (tickBody s).bank, duty := (tickBody s).duty } := by
  rw [tickBody_eq, updateStatusError_frame, outputPhase_frame]

/-- After the Input Engine phase a tick changes no cell but STATUS (R123). -/
theorem cell_tickBody (s : State) (a : RegAddr) (h11 : a ≠ 0x11#7) :
    (tickBody s).cell a = (inputPhase s.now s.atTick).cell a := by
  simp [tickBody_eq, updateStatusError, cell_outputPhase, h11]

/-- After the Input Engine phase a tick changes none of STATUS bits 5 to 7 (R109 to R111, R124). -/
theorem status_tickBody (s : State) (k : Nat) (hk : 5 ≤ k) :
    ((tickBody s).cell 0x11#7).getLsbD k = ((inputPhase s.now s.atTick).cell 0x11#7).getLsbD k := by
  have h1 : k ≠ 1 := by omega
  have h2 : k ≠ 2 := by omega
  have h3 : k ≠ 3 := by omega
  have h4 : k ≠ 4 := by omega
  simp [tickBody_eq, updateStatusError, cell_outputPhase, h1, h2, h3, h4]

end Sys2Proof.Machine
end

section
/-! The encoder: its transition table and its publication at a tick (42_input_engine.md section 2). -/
namespace Sys2Proof.Machine

/-- The quadrature value is `2A + B` (R100). -/
theorem toNat_quadrature (a b : Bool) : (quadrature a b).toNat = 2 * a.toNat + b.toNat := by
  cases a <;> cases b <;> rfl

/-- Settles O48: the table by evaluation of its sixteen entries. -/
theorem quadratureTable : Obligations.QuadratureTable := by
  unfold Obligations.QuadratureTable
  exact ⟨toNat_quadrature, by decide⟩

theorem getLsbD_posLow (p : BitVec 16) (k : Nat) (hk : k < 8) : (posLow p).getLsbD k = p.getLsbD k := by
  simp [posLow, hk]

theorem getLsbD_posHigh (p : BitVec 16) (k : Nat) (hk : k < 8) : (posHigh p).getLsbD k = p.getLsbD (8 + k) := by
  simp [posHigh, hk]

/-- The cells 0x60 to 0x62 after a tick are those the publication of the encoder writes (R102). -/
theorem cell_tickBody_encoder (s : State) (a : RegAddr) (ha : a ∈ [0x60#7, 0x61#7, 0x62#7]) :
    (tickBody s).cell a = (encoderPublication (debouncePhase s.now s.atTick)).cell a := by
  obtain ⟨h11, h63⟩ : a ≠ 0x11#7 ∧ a ≠ 0x63#7 := by revert a; decide
  rw [cell_tickBody s a h11, inputPhase_eq, cell_buttonPhase _ _ _ h11, if_neg h63]

/-- The debounce phase leaves the encoder's position and delta alone (R97, R98). -/
theorem counters_debouncePhase (t : Millis) (s : State) :
    (debouncePhase t s).position = s.position ∧ (debouncePhase t s).deltaAccum = s.deltaAccum := by
  rw [debouncePhase_frame]
  exact ⟨rfl, rfl⟩

/-- The encoder's position and delta after a tick (R102). -/
theorem counters_tickBody (s : State) : (tickBody s).deltaAccum = 0#8 ∧ (tickBody s).position = s.position := by
  rw [tickBody_frame, inputPhase_eq, buttonPhase_frame, encoderPublication_frame]
  exact ⟨rfl, (counters_debouncePhase s.now s.atTick).1⟩

/-- STATUS.ENCODER_CHANGED after a tick (R102). -/
theorem encoderChanged_tickBody (s : State) :
    ((tickBody s).cell 0x11#7).getLsbD 6 = ((s.cell 0x11#7).getLsbD 6 || s.deltaAccum != 0#8) := by
  rw [status_tickBody s 6 (by decide), inputPhase_eq, status_buttonPhase _ _ 6 (by decide), status_encoderPublication,
    status_debouncePhase _ _ 6 (by decide), (counters_debouncePhase _ _).2]
  rfl

/-- Settles O40: the cells the publication writes reach the end of the tick, as do the counters and STATUS bit 6. -/
theorem tickPublishesEncoder : Obligations.TickPublishesEncoder := by
  unfold Obligations.TickPublishesEncoder
  intro s t ht
  obtain rfl := eq_tickBody_of_exec ht
  obtain ⟨hposition, hdelta⟩ := counters_debouncePhase s.now s.atTick
  have h60 : (tickBody s).cell 0x60#7 = posLow s.position := by
    rw [cell_tickBody_encoder s _ (by decide), cell_encoderPublication, if_pos rfl, hposition]
    rfl
  have h61 : (tickBody s).cell 0x61#7 = posHigh s.position := by
    rw [cell_tickBody_encoder s _ (by decide), cell_encoderPublication, if_neg (by decide), if_pos rfl, hposition]
    rfl
  have h62 : (tickBody s).cell 0x62#7 = s.deltaAccum := by
    rw [cell_tickBody_encoder s _ (by decide), cell_encoderPublication, if_neg (by decide), if_neg (by decide),
      if_pos rfl, hdelta]
    rfl
  obtain ⟨hzeroed, hkept⟩ := counters_tickBody s
  refine ⟨fun k hk => ⟨?_, ?_⟩, h62, hzeroed, hkept, encoderChanged_tickBody s⟩
  · rw [h60, getLsbD_posLow _ _ hk]
  · rw [h61, getLsbD_posHigh _ _ hk]

end Sys2Proof.Machine
end

section
/-! The button classifier at a tick (42_input_engine.md section 3): the part of the state it owns, its transitions, and
that no other phase of the tick touches that part. -/
namespace Sys2Proof.Machine

/-- What the button classifier writes: the button's state, its two times and STATUS bit 7 (R33, R105). -/
def buttonView (s : State) : ButtonState × Millis × Millis × Bool :=
  (s.button, s.pressTime, s.lastRelease, (s.cell 0x11#7).getLsbD 7)

theorem buttonView_eq_iff (s : State) (b : ButtonState) (p r : Millis) (x : Bool) :
    buttonView s = (b, p, r, x) ↔
      s.button = b ∧ s.pressTime = p ∧ s.lastRelease = r ∧ (s.cell 0x11#7).getLsbD 7 = x := by
  simp only [buttonView, Prod.mk.injEq]

/-! The transitions of R105, case by case. The pin reads 0 when the button is pressed (R104). -/

theorem classifyButton_released_up (t : Millis) (s : State) (hb : s.button = .released) (hp : s.pins.btn = true) :
    classifyButton t s = s := by
  simp [classifyButton, buttonDown, hb, hp]

theorem classifyButton_released_down (t : Millis) (s : State) (hb : s.button = .released) (hp : s.pins.btn = false) :
    classifyButton t s = buttonPress t s := by
  simp [classifyButton, buttonDown, hb, hp]

theorem classifyButton_kept_down (t : Millis) (s : State) (hb : s.button = .held ∨ s.button = .doubleClick)
    (hp : s.pins.btn = false) : classifyButton t s = s := by
  rcases hb with hb | hb <;> simp [classifyButton, buttonDown, hb, hp]

theorem classifyButton_up (t : Millis) (s : State) (hb : s.button ≠ .released) (hp : s.pins.btn = true) :
    classifyButton t s = buttonRelease t s := by
  cases h : s.button with
  | released => exact absurd h hb
  | pressed | held | doubleClick => simp [classifyButton, buttonDown, h, hp]

theorem buttonView_buttonPress (t : Millis) (s : State) :
    buttonView (buttonPress t s) =
      (if t - s.lastRelease < 300#32 then .doubleClick else .pressed, t, s.lastRelease, true) := by
  have hbit : ((buttonPress t s).cell 0x11#7).getLsbD 7 = true := by simp [buttonPress]
  rw [buttonView, hbit]
  rfl

theorem buttonView_buttonRelease (t : Millis) (s : State) :
    buttonView (buttonRelease t s) = (.released, s.pressTime, t, false) := by
  simp [buttonView, buttonRelease]

theorem buttonView_classifyButton_pressed_down (t : Millis) (s : State) (hb : s.button = .pressed)
    (hp : s.pins.btn = false) :
    buttonView (classifyButton t s) =
      (if 1000#32 ≤ t - s.pressTime then .held else .pressed, s.pressTime, s.lastRelease,
        (s.cell 0x11#7).getLsbD 7) := by
  by_cases h : 1000#32 ≤ t - s.pressTime <;>
    simp [buttonView, classifyButton, buttonDown, elapsed, Config.holdMs, hb, hp, h]

/-- What the classifier writes depends on nothing but what it owns and the button's level. -/
theorem buttonView_classifyButton_congr (t : Millis) (s u : State) (hview : buttonView u = buttonView s)
    (hpins : u.pins = s.pins) : buttonView (classifyButton t u) = buttonView (classifyButton t s) := by
  obtain ⟨hbutton, hpress, hrelease, hbit⟩ := (buttonView_eq_iff u _ _ _ _).mp hview
  cases hp : s.pins.btn with
  | true =>
    by_cases hb : s.button = .released
    · rw [classifyButton_released_up t s hb hp, classifyButton_released_up t u (hbutton.trans hb) (hpins ▸ hp),
        hview]
    · rw [classifyButton_up t s hb hp, classifyButton_up t u (hbutton ▸ hb) (hpins ▸ hp), buttonView_buttonRelease,
        buttonView_buttonRelease, hpress]
  | false =>
    cases hb : s.button with
    | released =>
      rw [classifyButton_released_down t s hb hp, classifyButton_released_down t u (hbutton.trans hb) (hpins ▸ hp),
        buttonView_buttonPress, buttonView_buttonPress, hrelease]
    | pressed =>
      rw [buttonView_classifyButton_pressed_down t s hb hp,
        buttonView_classifyButton_pressed_down t u (hbutton.trans hb) (hpins ▸ hp), hpress, hrelease, hbit]
    | held | doubleClick =>
      have hkept : s.button = .held ∨ s.button = .doubleClick := by simp [hb]
      rw [classifyButton_kept_down t s hkept hp, classifyButton_kept_down t u (hbutton ▸ hkept) (hpins ▸ hp), hview]

/-! The other phases. -/

theorem buttonView_debouncePhase (t : Millis) (s : State) : buttonView (debouncePhase t s) = buttonView s := by
  rw [buttonView, status_debouncePhase _ _ _ (by decide), debouncePhase_frame]
  rfl

theorem buttonView_encoderPublication (s : State) : buttonView (encoderPublication s) = buttonView s := by
  rw [buttonView, status_encoderPublication, encoderPublication_frame]
  simp [buttonView]

/-- The publication of the code leaves what the classifier writes alone (R106). -/
theorem buttonView_buttonPhase (t : Millis) (s : State) :
    buttonView (buttonPhase t s) = buttonView (classifyButton t s) := by
  simp [buttonView, buttonPhase]

/-- What the classifier owns, after a tick, is what it makes of the state before the tick (R107, R123). -/
theorem buttonView_tickBody (s : State) : buttonView (tickBody s) = buttonView (classifyButton s.now s) := by
  have hview : buttonView (encoderPublication (debouncePhase s.now s.atTick)) = buttonView s := by
    rw [buttonView_encoderPublication, buttonView_debouncePhase]
    rfl
  have hpins : (encoderPublication (debouncePhase s.now s.atTick)).pins = s.pins := by
    rw [encoderPublication_frame, debouncePhase_frame]
    rfl
  calc buttonView (tickBody s)
      = buttonView (inputPhase s.now s.atTick) := by
        rw [buttonView, status_tickBody _ _ (by decide), tickBody_frame]
        rfl
    _ = buttonView (classifyButton s.now (encoderPublication (debouncePhase s.now s.atTick))) := by
        rw [inputPhase_eq, buttonView_buttonPhase]
    _ = buttonView (classifyButton s.now s) := buttonView_classifyButton_congr _ _ _ hview hpins

/-- The cell 0x63 after a tick holds the code of the button's state (R106). -/
theorem buttonCode_tickBody (s : State) : (tickBody s).cell 0x63#7 = buttonCode (tickBody s).button := by
  rw [cell_tickBody _ _ (by decide), inputPhase_eq, cell_buttonPhase _ _ _ (by decide), if_pos rfl]
  rfl

/-- Settles O41: one clause for each transition of the classifier, and one for each code. -/
theorem tickClassifiesButton : Obligations.TickClassifiesButton := by
  unfold Obligations.TickClassifiesButton
  intro s t ht
  obtain rfl := eq_tickBody_of_exec ht
  have hview := buttonView_tickBody s
  have hcode := buttonCode_tickBody s
  simp only [← buttonView_eq_iff, hview]
  refine ⟨?idle, ?press, ?hold, ?keep, ?release, ?code0, ?code1, ?code2, ?code3⟩
  case idle =>
    intro hb hp
    rw [classifyButton_released_up _ _ hb hp, buttonView, hb]
  case press =>
    intro hb hp
    rw [classifyButton_released_down _ _ hb hp, buttonView_buttonPress]
  case hold =>
    intro hb hp
    rw [buttonView_classifyButton_pressed_down _ _ hb hp]
  case keep =>
    intro hb hp
    rw [classifyButton_kept_down _ _ hb hp, buttonView]
  case release =>
    intro hb hp
    rw [classifyButton_up _ _ hb hp, buttonView_buttonRelease]
  case code0 | code1 | code2 | code3 =>
    intro hb
    rw [hcode, hb]
    rfl

end Sys2Proof.Machine
end

section
/-! The Output Engine at a tick (43_output_engine.md): it reads nothing but the gates of CONTROL and the actuator cells,
which the Input Engine phase leaves alone, so that it drives what it would drive in the state before the tick. -/
namespace Sys2Proof.Machine

/-- The Input Engine phase changes no cell but STATUS, the input registers 0x50 to 0x53 and the encoder registers 0x60 to
0x63 (R107). -/
theorem cell_inputPhase (t : Millis) (s : State) (a : RegAddr)
    (ha : a ∉ [0x11#7, 0x50#7, 0x51#7, 0x52#7, 0x53#7, 0x60#7, 0x61#7, 0x62#7, 0x63#7]) :
    (inputPhase t s).cell a = s.cell a := by
  simp only [List.mem_cons, List.not_mem_nil, or_false, not_or] at ha
  obtain ⟨h11, h50, h51, h52, h53, h60, h61, h62, h63⟩ := ha
  have hdebounce : (debouncePhase t s).cell a = s.cell a := by
    simp [debouncePhase, cell_publishInputs, h11, h50, h51, h52, h53]
  rw [inputPhase_eq, cell_buttonPhase _ _ _ h11, if_neg h63]
  simp [cell_encoderPublication, h11, h60, h61, h62, hdebounce]

/-- The levels, modes and directions of the actuators, which the Output Engine reads (R109 to R111). -/
def actuatorCells : List RegAddr := [0x20#7, 0x21#7, 0x22#7, 0x30#7, 0x31#7, 0x40#7, 0x41#7, 0x42#7]

/-- The two states agree on what the Output Engine reads: bits 3 to 5 of CONTROL and the actuator cells (R112). -/
structure SameActuators (s u : State) : Prop where
  gate : ∀ k, 3 ≤ k → k ≤ 5 → (s.cell 0x10#7).getLsbD k = (u.cell 0x10#7).getLsbD k
  cell : ∀ a, a ∈ actuatorCells → s.cell a = u.cell a

theorem groupOn_iff (s : State) (gate : ControlBit) (mode : RegAddr) :
    groupOn s gate mode = true ↔ (s.cell 0x10#7).getLsbD (controlIndex gate) = true ∧ s.cell mode ≠ 0xFF#8 := by
  simp [groupOn, modeOff]

theorem groupOn_eq_false_iff (s : State) (gate : ControlBit) (mode : RegAddr) :
    groupOn s gate mode = false ↔ ¬ ((s.cell 0x10#7).getLsbD (controlIndex gate) = true ∧ s.cell mode ≠ 0xFF#8) := by
  rw [← groupOn_iff, Bool.not_eq_true]

theorem SameActuators.groupOn_eq {s u : State} (h : SameActuators s u) (gate : ControlBit) (mode : RegAddr)
    (hgate : 3 ≤ controlIndex gate ∧ controlIndex gate ≤ 5) (hmode : mode ∈ actuatorCells) :
    groupOn s gate mode = groupOn u gate mode := by
  rw [Bool.eq_iff_iff, groupOn_iff, groupOn_iff, h.gate _ hgate.1 hgate.2, h.cell mode hmode]

/-- What the Output Engine drives depends on nothing but what it reads (R112, R114). -/
theorem SameActuators.outputPhase_eq {s u : State} (h : SameActuators s u) :
    (outputPhase s).duty = (outputPhase u).duty ∧
    ∀ k, 2 ≤ k → k ≤ 4 → ((outputPhase s).cell 0x11#7).getLsbD k = ((outputPhase u).cell 0x11#7).getLsbD k := by
  have hvu := h.groupOn_eq .vuEnable 0x22#7 (by decide) (by decide)
  have hbacklight := h.groupOn_eq .backlightEnable 0x31#7 (by decide) (by decide)
  have htape := h.groupOn_eq .tapeEnable 0x42#7 (by decide) (by decide)
  have hspeed := h.cell 0x40#7 (by decide)
  have hdirection := h.cell 0x41#7 (by decide)
  constructor
  · rw [duty_outputPhase, duty_outputPhase, hvu, hbacklight, htape, hspeed, hdirection, h.cell 0x20#7 (by decide),
      h.cell 0x21#7 (by decide), h.cell 0x30#7 (by decide)]
  · intro k h2 h4
    obtain rfl | rfl | rfl : k = 2 ∨ k = 3 ∨ k = 4 := by omega
    all_goals simp [cell_outputPhase, hvu, hbacklight, htape, hspeed, hdirection]

/-- The Input Engine phase leaves what the Output Engine reads as it was before the tick. -/
theorem sameActuators_inputPhase (s : State) : SameActuators (inputPhase s.now s.atTick) s where
  gate k _ _ := by rw [cell_inputPhase _ _ _ (by decide), State.cell_atTick]
  cell a ha := by rw [cell_inputPhase _ _ a (by revert a; decide), State.cell_atTick]

/-- A tick drives the duties the Output Engine drives in the state before it (R113, R123). -/
theorem duty_tickBody (s : State) : (tickBody s).duty = (outputPhase s).duty := by
  rw [tickBody_eq, updateStatusError_frame]
  exact (sameActuators_inputPhase s).outputPhase_eq.1

/-- A tick leaves in STATUS bits 2 to 4 what the Output Engine puts there in the state before it (R113, R123). -/
theorem outputStatus_tickBody (s : State) (k : Nat) (h2 : 2 ≤ k) (h4 : k ≤ 4) :
    ((tickBody s).cell 0x11#7).getLsbD k = ((outputPhase s).cell 0x11#7).getLsbD k := by
  have h1 : k ≠ 1 := by omega
  rw [← (sameActuators_inputPhase s).outputPhase_eq.2 k h2 h4]
  simp [tickBody_eq, updateStatusError, h1]

/-- STATUS.VU_ACTIVE after a tick (R109). -/
theorem vuActive_tickBody (s : State) : ((tickBody s).cell 0x11#7).getLsbD 2 = groupOn s .vuEnable 0x22#7 := by
  rw [outputStatus_tickBody s 2 (by decide) (by decide)]
  simp [cell_outputPhase]

/-- STATUS.BACKLIGHT_ON after a tick (R110). -/
theorem backlightOn_tickBody (s : State) :
    ((tickBody s).cell 0x11#7).getLsbD 3 = groupOn s .backlightEnable 0x31#7 := by
  rw [outputStatus_tickBody s 3 (by decide) (by decide)]
  simp [cell_outputPhase]

/-- The two sides of the H-bridge and STATUS.TAPE_RUNNING after a tick (R111). -/
theorem tape_tickBody (s : State) :
    ((tickBody s).duty.tapeA, (tickBody s).duty.tapeB, ((tickBody s).cell 0x11#7).getLsbD 4) =
      tapeDrive (groupOn s .tapeEnable 0x42#7) (tapeDirectionOf (s.cell 0x41#7)) (s.cell 0x40#7) := by
  rw [duty_tickBody, duty_outputPhase, outputStatus_tickBody s 4 (by decide) (by decide)]
  simp [cell_outputPhase]

/-- Settles O42: the duties and the bit both follow the gate of the group. -/
theorem tickDrivesVuMeters : Obligations.TickDrivesVuMeters := by
  unfold Obligations.TickDrivesVuMeters
  intro s t ht
  obtain rfl := eq_tickBody_of_exec ht
  rw [duty_tickBody, duty_outputPhase, vuActive_tickBody]
  constructor
  · intro hgate
    have hon : groupOn s .vuEnable 0x22#7 = true := (groupOn_iff s _ _).mpr hgate
    simp [hon]
  · intro hgate
    have hoff : groupOn s .vuEnable 0x22#7 = false := (groupOn_eq_false_iff s _ _).mpr hgate
    simp [hoff]

/-- Settles O43: the duty and the bit both follow the gate of the group. -/
theorem tickDrivesBacklight : Obligations.TickDrivesBacklight := by
  unfold Obligations.TickDrivesBacklight
  intro s t ht
  obtain rfl := eq_tickBody_of_exec ht
  rw [duty_tickBody, duty_outputPhase, backlightOn_tickBody]
  constructor
  · intro hgate
    have hon : groupOn s .backlightEnable 0x31#7 = true := (groupOn_iff s _ _).mpr hgate
    simp [hon]
  · intro hgate
    have hoff : groupOn s .backlightEnable 0x31#7 = false := (groupOn_eq_false_iff s _ _).mpr hgate
    simp [hoff]

/-- Every value that is none of the three listed directions drives neither side (R108, R111). -/
theorem tapeDirectionOf_unlisted (v : Byte) (h : v ∉ [0x01#8, 0x02#8, 0x03#8]) : tapeDirectionOf v = .stopOrUnknown := by
  obtain ⟨h1, h2, h3⟩ : v ≠ 1#8 ∧ v ≠ 2#8 ∧ v ≠ 3#8 := by simpa using h
  rw [tapeDirectionOf, if_neg h1, if_neg h2, if_neg h3]

/-- Settles O44: a tick's outputs are the drive of the H-bridge, read off for each direction. -/
theorem tickDrivesTapeMotor : Obligations.TickDrivesTapeMotor := by
  unfold Obligations.TickDrivesTapeMotor
  intro s t ht
  obtain rfl := eq_tickBody_of_exec ht
  simp only [← Prod.mk.injEq, tape_tickBody]
  constructor
  · intro hgate
    have hon : groupOn s .tapeEnable 0x42#7 = true := (groupOn_iff s _ _).mpr hgate
    rw [hon]
    refine ⟨?forward, ?reverse, ?brake, ?unlisted⟩
    case forward | reverse | brake =>
      intro hdirection
      rw [hdirection]
      rfl
    case unlisted =>
      intro hdirection
      rw [tapeDirectionOf_unlisted _ hdirection]
      rfl
  · intro hgate
    have hoff : groupOn s .tapeEnable 0x42#7 = false := (groupOn_eq_false_iff s _ _).mpr hgate
    rw [hoff]
    rfl

end Sys2Proof.Machine
end

section
/-! The frame of the address byte alone (44_i2c_endpoint.md, R119): how it decodes, and that its instruction skips. -/
namespace Sys2Proof.Machine

theorem decodeFrame_addressOnly : decodeFrame [Config.addressByte false] = .ok .i2cAddrOnly := by
  rw [decodeFrame, if_pos rfl]

@[simp] theorem exec_i2cAddrOnly (s : State) : exec .i2cAddrOnly s = .next s := rfl

/-- Settles O26: 0x84 is the write address byte (R66), and the instruction of a frame that holds nothing else skips. -/
theorem addressOnlyFrameIsIgnored : Obligations.AddressOnlyFrameIsIgnored :=
  ⟨decodeFrame_addressOnly, exec_i2cAddrOnly⟩

end Sys2Proof.Machine
end

section
/-! The decoder and the encoder against each other and against the opcode table (30_encoding.md sections 1 to 3): an
equation for each form of code, and the encoding obligations assembled from them. -/
namespace Sys2Proof

/-! Commands (R71). -/

/-- The commands of the six OPEN codes, in the order of R9. -/
def testCommand (k : Fin 6) : Instr :=
  [.cmdTestVuLeft, .cmdTestVuRight, .cmdTestVuBoth, .cmdTestBacklight, .cmdTestTapeMotor, .cmdTestAll].get k

/-- An OPEN code, whatever its value, decodes to its own command (R71, D8). -/
theorem decodeCommand_testCode (k : Fin 6) : decodeCommand (Config.testCode k) = testCommand k := by
  have hNop : Config.testCode k ≠ Config.cmdNop := Config.testCode_ne k _ (by decide)
  have hReset : Config.testCode k ≠ Config.cmdReset := Config.testCode_ne k _ (by decide)
  have hFactory : Config.testCode k ≠ Config.cmdFactoryReset := Config.testCode_ne k _ (by decide)
  have hCalibrate : Config.testCode k ≠ Config.cmdCalibrateVu := Config.testCode_ne k _ (by decide)
  have hShown : Config.testCode k ≠ Config.cmdShownInvalid := Config.testCode_ne k _ (by decide)
  rw [decodeCommand, if_neg hNop, if_neg hReset, if_neg hFactory, if_neg hCalibrate, if_neg hShown]
  simp only [Config.cmdTestVuLeft, Config.cmdTestVuRight, Config.cmdTestVuBoth, Config.cmdTestBacklight,
    Config.cmdTestTapeMotor, Config.cmdTestAll, Config.testCode_eq_iff]
  fin_cases k <;> rfl

/-- A byte that names no command decodes to CMD_INVALID (R95). -/
theorem decodeCommand_unnamed (c : Byte) (h : c ∉ Config.namedCommands) : decodeCommand c = .cmdInvalid c := by
  simp only [Config.mem_namedCommands, not_or] at h
  simp [decodeCommand, h]

/-- The codes that name a command are the four fixed ones and the six OPEN ones (R71). -/
theorem namedCommands_eq :
    Config.namedCommands = [0x00#8, 0x01#8, 0x02#8, 0x10#8] ++ List.ofFn Config.testCode := rfl

/-- The shown invalid value names no command, whatever the OPEN codes are (R71, R9). -/
theorem shownInvalid_not_named : Config.cmdShownInvalid ∉ Config.namedCommands := by
  rw [namedCommands_eq, List.mem_append, List.mem_ofFn]
  rintro (hfixed | ⟨k, hopen⟩)
  · exact absurd hfixed (by decide)
  · exact Config.testCode_ne k _ (by decide) hopen

/-- The ten codes that name a command are pairwise distinct (R9, D8). -/
theorem namedCommands_nodup : Config.namedCommands.Nodup := by
  rw [namedCommands_eq, List.nodup_append]
  refine ⟨by decide, List.nodup_ofFn.mpr Config.testCode_injective, fun c hc d hd => ?_⟩
  obtain ⟨k, rfl⟩ := List.mem_ofFn.mp hd
  exact (Config.testCode_ne k c (List.mem_append_left [0x77#8] hc)).symm

theorem encode_testCommand (k : Fin 6) :
    (testCommand k).wellFormed = true ∧ encode (testCommand k) = .command (Config.testCode k) := by
  fin_cases k <;> exact ⟨rfl, rfl⟩

/-- A command byte is the code of the well-formed instruction it decodes to (R71). -/
theorem encode_decodeCommand (c : Byte) :
    (decodeCommand c).wellFormed = true ∧ encode (decodeCommand c) = .command c := by
  by_cases hc : c ∈ Config.namedCommands
  · rw [namedCommands_eq, List.mem_append, List.mem_ofFn] at hc
    rcases hc with hfixed | ⟨k, rfl⟩
    · revert c
      decide
    · rw [decodeCommand_testCode]
      exact encode_testCommand k
  · rw [decodeCommand_unnamed c hc]
    exact ⟨decide_eq_true hc, rfl⟩

/-- Settles O4: the fixed codes by evaluation, the OPEN codes and the other bytes by the lemmas above. -/
theorem commandByteSelectsCommand : Obligations.CommandByteSelectsCommand := by
  unfold Obligations.CommandByteSelectsCommand
  exact ⟨rfl, rfl, rfl, rfl, rfl, decodeCommand_testCode 0, decodeCommand_testCode 1, decodeCommand_testCode 2,
    decodeCommand_testCode 3, decodeCommand_testCode 4, decodeCommand_testCode 5, namedCommands_nodup,
    shownInvalid_not_named, decodeCommand_unnamed⟩

/-! Reads (R70). -/

theorem decodeRead_busAddr (a : RegAddr) (h : (Instr.bankRd a).wellFormed = true) :
    decodeRead (busAddr a) = .bankRd a := by
  revert a
  decide

theorem decodeRead_outsideAddr (a : RegAddr) : decodeRead (outsideAddr a) = .bankRdInvalid a := by
  revert a
  decide

/-- A pointer value is the code of the well-formed read operation it selects (R70). -/
theorem encode_decodeRead (p : Byte) :
    (decodeRead p).wellFormed = true ∧ encode (decodeRead p) = .readAt p := by
  revert p
  decide

/-! Writes (R70). The data byte is carried along, so the branches of the decoder are followed one by one. -/

theorem decodeWrite_readOnly (a : BitVec 2) (v : Byte) : decodeWrite (a.setWidth 8) v = .bankWrRo a v := by
  obtain ⟨hport, hcontrol, hmask, hback⟩ : a.setWidth 8 ≠ Config.cmdPort ∧ a.setWidth 8 ≠ 0x10#8 ∧
      a.setWidth 8 &&& 0xFC#8 = 0x00#8 ∧ (a.setWidth 8).setWidth 2 = a := by
    revert a
    decide
  rw [decodeWrite, if_neg hport, if_neg hcontrol, if_pos hmask, hback]

/-- A plain address below 0x80 falls under no more specific row of the writes (R70). -/
theorem busAddr_plain : ∀ a : RegAddr, 0x04#7 ≤ a → a ≠ 0x10#7 →
    busAddr a ≠ Config.cmdPort ∧ busAddr a ≠ 0x10#8 ∧ busAddr a &&& 0xFC#8 ≠ 0x00#8 := by
  decide

theorem decodeWrite_busAddr (a : RegAddr) (v : Byte) (h : (Instr.bankWr a v).wellFormed = true) :
    decodeWrite (busAddr a) v = .bankWr a v := by
  obtain ⟨h04, h10⟩ : 0x04#7 ≤ a ∧ a ≠ 0x10#7 := by simpa [Instr.wellFormed] using h
  obtain ⟨hport, hcontrol, hmask⟩ := busAddr_plain a h04 h10
  rw [decodeWrite, if_neg hport, if_neg hcontrol, if_neg hmask, if_pos (busAddr_lt a), cellAddr_busAddr]

/-- An address from 0x80 on but the command port's falls under no more specific row of the writes (R70). -/
theorem outsideAddr_plain : ∀ a : RegAddr, a ≠ 0x70#7 →
    outsideAddr a ≠ Config.cmdPort ∧ outsideAddr a ≠ 0x10#8 ∧ outsideAddr a &&& 0xFC#8 ≠ 0x00#8 := by
  decide

theorem decodeWrite_outsideAddr (a : RegAddr) (v : Byte) (h : (Instr.bankWrInvalid a v).wellFormed = true) :
    decodeWrite (outsideAddr a) v = .bankWrInvalid a v := by
  have ha : a ≠ 0x70#7 := by simpa [Instr.wellFormed] using h
  obtain ⟨hport, hcontrol, hmask⟩ := outsideAddr_plain a ha
  have hout : ¬ outsideAddr a < 0x80#8 := by simpa using le_outsideAddr a
  rw [decodeWrite, if_neg hport, if_neg hcontrol, if_neg hmask, if_neg hout, cellAddr_outsideAddr]

/-- The write code at a pointer value is the code of the well-formed write operation it selects (R70). -/
theorem encode_decodeWrite (p v : Byte) :
    (decodeWrite p v).wellFormed = true ∧ encode (decodeWrite p v) = .writeAt p v := by
  unfold decodeWrite
  split_ifs with hport hcontrol hmask hlow
  · exact ⟨rfl, by rw [hport]; rfl⟩
  · exact ⟨rfl, by rw [hcontrol]; rfl⟩
  · have hback : ∀ p : Byte, p &&& 0xFC#8 = 0x00#8 → (p.setWidth 2).setWidth 8 = p := by decide
    exact ⟨rfl, by rw [encode, hback p hmask]⟩
  · have hcell : 0x04#7 ≤ cellAddr p ∧ cellAddr p ≠ 0x10#7 := by revert p; decide
    exact ⟨by simpa [Instr.wellFormed] using hcell, by rw [encode, busAddr_cellAddr p hlow]⟩
  · have hcell : cellAddr p ≠ 0x70#7 := by
      intro h70
      rw [← outsideAddr_cellAddr p (by simpa using hlow), h70] at hport
      exact hport rfl
    exact ⟨by simpa [Instr.wellFormed] using hcell, by rw [encode, outsideAddr_cellAddr p (by simpa using hlow)]⟩

/-! Frames (R66 to R68). -/

/-- A read frame of at least one slot decodes to the read of as many bytes, whatever the slots hold (R68). -/
theorem decodeFrame_read (slots : List Byte) (h : slots ≠ []) :
    decodeFrame (0x85#8 :: slots) = .ok (.i2cRead slots.length) := by
  cases slots with
  | nil => exact absurd rfl h
  | cons b rest => rfl

/-- A frame addressed elsewhere decodes to no instruction (R116). -/
theorem decodeFrame_elsewhere (b : Byte) (data : List Byte) (hwrite : b ≠ 0x84#8) (hread : b ≠ 0x85#8) :
    decodeFrame (b :: data) = .error (.otherAddress b) :=
  (if_neg hwrite).trans (if_neg hread)

/-- The frames that decode: an address byte for writing alone or with REG and data, or one for reading with at least one
slot (R66 to R68). -/
theorem decodeFrame_ok (bytes : List Byte) (i : Instr) (h : decodeFrame bytes = .ok i) :
    i = .i2cAddrOnly ∧ bytes = [0x84#8] ∨
    (∃ reg data, i = .i2cWrite reg data ∧ bytes = 0x84#8 :: reg :: data) ∨
    (∃ slots, slots ≠ [] ∧ i = .i2cRead slots.length ∧ bytes = 0x85#8 :: slots) := by
  rcases bytes with _ | ⟨b, data⟩
  · cases h
  by_cases hwrite : b = 0x84#8
  · subst hwrite
    rcases data with _ | ⟨reg, rest⟩
    · exact .inl ⟨(Except.ok.inj h).symm, rfl⟩
    · exact .inr (.inl ⟨reg, rest, (Except.ok.inj h).symm, rfl⟩)
  by_cases hread : b = 0x85#8
  · subst hread
    rcases data with _ | ⟨slot, rest⟩
    · cases h
    · exact .inr (.inr ⟨slot :: rest, by simp, (Except.ok.inj h).symm, rfl⟩)
  · rw [decodeFrame_elsewhere b data hwrite hread] at h
    cases h

/-! The obligations. -/

/-- Settles O1: one case for each instruction, by the equation of its form of code. -/
theorem decodeEncodeRoundTrip : Obligations.DecodeEncodeRoundTrip := by
  unfold Obligations.DecodeEncodeRoundTrip
  intro i hi
  have hopen (k : Fin 6) : decode (.command (Config.testCode k)) = .ok (testCommand k) :=
    congrArg Except.ok (decodeCommand_testCode k)
  cases i with
  | i2cWrite | i2cAddrOnly | bankRdIcl | bankRdIch | bankRdEdelta | bankWrControl | bankWrCmd | cmdNop | cmdReset
  | cmdFactoryReset | cmdCalibrateVu | tick | encEdge => rfl
  | i2cRead n =>
    have hn : 1 ≤ n := of_decide_eq_true hi
    have hslots : List.replicate n 0x00#8 ≠ [] := by simp; omega
    exact (decodeFrame_read _ hslots).trans (by rw [List.length_replicate])
  | bankRd a => exact congrArg Except.ok (decodeRead_busAddr a hi)
  | bankRdInvalid a => exact congrArg Except.ok (decodeRead_outsideAddr a)
  | bankWr a v => exact congrArg Except.ok (decodeWrite_busAddr a v hi)
  | bankWrRo a v => exact congrArg Except.ok (decodeWrite_readOnly a v)
  | bankWrInvalid a v => exact congrArg Except.ok (decodeWrite_outsideAddr a v hi)
  | cmdTestVuLeft => exact hopen 0
  | cmdTestVuRight => exact hopen 1
  | cmdTestVuBoth => exact hopen 2
  | cmdTestBacklight => exact hopen 3
  | cmdTestTapeMotor => exact hopen 4
  | cmdTestAll => exact hopen 5
  | cmdInvalid c => exact congrArg Except.ok (decodeCommand_unnamed c (of_decide_eq_true hi))

/-- Settles O2: one case for each form of code. -/
theorem decodedCodeIsEncoding : Obligations.DecodedCodeIsEncoding := by
  unfold Obligations.DecodedCodeIsEncoding
  intro c i h
  cases c with
  | frame bytes =>
    rcases decodeFrame_ok bytes i h with ⟨rfl, rfl⟩ | ⟨reg, data, rfl, rfl⟩ | ⟨slots, hslots, rfl, rfl⟩
    · exact ⟨rfl, .inl rfl⟩
    · exact ⟨rfl, .inl rfl⟩
    · exact ⟨decide_eq_true (List.length_pos_iff.mpr hslots), .inr ⟨slots, rfl, rfl⟩⟩
  | readAt p =>
    obtain rfl := Except.ok.inj h
    exact (encode_decodeRead p).imp_right .inl
  | writeAt p v =>
    obtain rfl := Except.ok.inj h
    exact (encode_decodeWrite p v).imp_right .inl
  | command c =>
    obtain rfl := Except.ok.inj h
    exact (encode_decodeCommand c).imp_right .inl
  | tick | encEdge =>
    obtain rfl := Except.ok.inj h
    exact ⟨rfl, .inl rfl⟩

/-- The row of the table a write operation belongs to does not depend on its data byte (R70). -/
theorem tableRow_decodeWrite (p v : Byte) : tableRow (decodeWrite p v) = tableRow (decodeWrite p 0x00#8) := by
  unfold decodeWrite
  split_ifs <;> rfl

/-- Settles O3: both tables by evaluation at every pointer value. -/
theorem pointerSelectsMostSpecificRow : Obligations.PointerSelectsMostSpecificRow := by
  unfold Obligations.PointerSelectsMostSpecificRow
  have hread : ∀ p, mostSpecific readRows p = tableRow (decodeRead p) := by decide
  have hwrite : ∀ p, mostSpecific writeRows p = tableRow (decodeWrite p 0x00#8) := by decide
  refine ⟨fun p v => ⟨hread p, (hwrite p).trans (tableRow_decodeWrite p v).symm⟩, ?_⟩
  rintro rows (rfl | rfl)
  · decide
  · decide

/-- Settles O5: each code by evaluation of the decoder. -/
theorem sampleCodesDecode : Obligations.SampleCodesDecode := by
  unfold Obligations.SampleCodesDecode
  exact ⟨rfl, rfl, rfl, rfl, rfl, rfl, rfl, rfl, rfl⟩

end Sys2Proof
end

section
/-! The bank's canonical form (10_state.md section 1, log 32): the cells it reads as determine its data. -/
namespace Sys2Proof.Machine

/-- A listed cell below all cells of a second bank tells the two banks apart. -/
theorem Memory.read_ne_of_lt_all {c : Host.Cell} {m k : Memory} (hm : Memory.wf (c :: m)) (hk : ∀ d ∈ k, c.1 < d.1) :
    Memory.read (c :: m) c.1 ≠ Memory.read k c.1 := by
  have hread : Memory.read (c :: m) c.1 = c.2 := if_pos rfl
  rw [hread, Memory.read_of_lt_all k c.1 hk]
  exact (hm.2 c (by simp)).2

/-- What is left of a canonical bank without its first cell is canonical, and lies above that cell. -/
theorem Memory.wf_cons {c : Host.Cell} {m : Memory} (h : Memory.wf (c :: m)) :
    Memory.wf m ∧ c.1 < Config.bankSize ∧ ∀ d ∈ m, c.1 < d.1 := by
  obtain ⟨hrise, hcell⟩ := h
  obtain ⟨hfirst, hrest⟩ := List.pairwise_cons.mp hrise
  exact ⟨⟨hrest, fun d hd => hcell d (by simp [hd])⟩, (hcell c (by simp)).1, hfirst⟩

/-- Settles O60: by induction on the first bank; the least listed cells of the two banks must be the same cell. -/
theorem canonicalBanksAreDetermined : Obligations.CanonicalBanksAreDetermined := by
  unfold Obligations.CanonicalBanksAreDetermined
  intro m
  induction m with
  | nil =>
    intro k _ hk hread
    cases k with
    | nil => rfl
    | cons d k =>
      have hd := (Memory.wf_cons hk).2.1
      exact absurd (hread d.1 hd).symm (Memory.read_ne_of_lt_all hk (by simp))
  | cons c m ih =>
    intro k hm hk hread
    obtain ⟨hmwf, hc, hcm⟩ := Memory.wf_cons hm
    cases k with
    | nil => exact absurd (hread c.1 hc) (Memory.read_ne_of_lt_all hm (by simp))
    | cons d k =>
      obtain ⟨hkwf, hd, hdk⟩ := Memory.wf_cons hk
      have haddr : c.1 = d.1 := by
        rcases lt_trichotomy c.1 d.1 with h | h | h
        · refine absurd (hread c.1 hc) (Memory.read_ne_of_lt_all hm fun e he => ?_)
          rcases List.mem_cons.mp he with rfl | he
          · exact h
          · exact h.trans (hdk e he)
        · exact h
        · refine absurd (hread d.1 hd).symm (Memory.read_ne_of_lt_all hk fun e he => ?_)
          rcases List.mem_cons.mp he with rfl | he
          · exact h
          · exact h.trans (hcm e he)
      have hbyte : c.2 = d.2 := by simpa [Memory.read, haddr] using hread c.1 hc
      have hrest : m = k := by
        refine ih k hmwf hkwf fun a ha => ?_
        by_cases hca : c.1 = a
        · rw [Memory.read_of_lt_all m a (hca ▸ hcm), Memory.read_of_lt_all k a (by rwa [← hca, haddr])]
        · simpa [Memory.read, hca, ← haddr] using hread a ha
      rw [Prod.ext haddr hbyte, hrest]

end Sys2Proof.Machine
end

section
/-! The per-byte operations as instructions of their own (40_register_bank.md sections 1 and 2, log 2): each is its
operation on the bank, with the byte supplied or its result dropped and the pointer moved past the address. -/
namespace Sys2Proof.Machine

open Sys2Proof.Safety

/-- Supplying the byte of a read touches no more cells than the read. -/
theorem onlyCells_supplyByte {s : State} {r : Byte × State} {l : List RegAddr} (p : Byte) (h : OnlyCells s r.2 l) :
    OnlyCells { s with dataOut := s.dataOut ++ [r.1], ptr := p + 1#8 } (supplyByte p r) l := by
  obtain ⟨hframe, hcell⟩ := h
  refine ⟨?_, hcell⟩
  unfold supplyByte
  rw [hframe]

/-- Taking the result of a write touches no more cells than the write. -/
theorem onlyCells_takeByte {s : State} {r : Result × State} {l : List RegAddr} (p : Byte) (h : OnlyCells s r.2 l) :
    OnlyCells { s with ptr := p + 1#8 } (takeByte p r) l := by
  obtain ⟨hframe, hcell⟩ := h
  refine ⟨?_, hcell⟩
  unfold takeByte State.pastAddress
  rw [hframe]

@[simp] theorem cell_takeByte (p : Byte) (r : Result × State) (a : RegAddr) : (takeByte p r).cell a = r.2.cell a := rfl

/-! Reads. -/

/-- Settles O14: the meaning of BANK_RD, written out. -/
theorem bankReadCompletes : Obligations.BankReadCompletes := fun _ _ _ => rfl

/-- Settles O15: the read operation at 0x52 and at 0x53 (`memReadFollowsItsCases`), its byte supplied. -/
theorem changedBitmapReadsComplete : Obligations.ChangedBitmapReadsComplete := by
  unfold Obligations.ChangedBitmapReadsComplete
  intro s
  obtain ⟨-, -, hlow, -⟩ := memReadFollowsItsCases 0x52#8 s
  obtain ⟨-, -, -, hhigh, -⟩ := memReadFollowsItsCases 0x53#8 s
  obtain ⟨hlowCells, hlow⟩ := hlow rfl
  obtain ⟨hhighCells, hhigh⟩ := hhigh rfl
  exact ⟨⟨_, rfl, onlyCells_supplyByte 0x52#8 hlowCells, hlow⟩, ⟨_, rfl, onlyCells_supplyByte 0x53#8 hhighCells, hhigh⟩⟩

/-- Settles O16: the read operation at 0x62 (`memReadFollowsItsCases`), its byte supplied. -/
theorem deltaReadCompletes : Obligations.DeltaReadCompletes := by
  unfold Obligations.DeltaReadCompletes
  intro s
  obtain ⟨-, -, -, -, hdelta, -⟩ := memReadFollowsItsCases 0x62#8 s
  obtain ⟨hcells, hstatus⟩ := hdelta rfl
  exact ⟨_, rfl, onlyCells_supplyByte 0x62#8 hcells, hstatus⟩

/-- Settles O17: the read operation outside the bank, its byte supplied. -/
theorem outsideReadCompletes : Obligations.OutsideReadCompletes := by
  unfold Obligations.OutsideReadCompletes
  intro a s
  refine ⟨supplyByte (outsideAddr a) (readOutside s), rfl, ?_, by simp [readOutside, withError_invalidReg]⟩
  rw [← outsideAddr_eq_add]
  exact onlyCells_supplyByte (outsideAddr a) (onlyCells_readOutside s)

/-! Writes. -/

/-- Settles O19: one cell is stored. -/
theorem bankWriteCompletes : Obligations.BankWriteCompletes := by
  unfold Obligations.BankWriteCompletes
  intro a v s _
  exact ⟨_, rfl, onlyCells_takeByte (busAddr a) (onlyCells_setCell s a v), by simp [writePlain]⟩

/-- A refused write raises INVALID_REG and touches ERROR alone (R86, R89). -/
theorem onlyCells_writeRefused (s : State) :
    OnlyCells s (writeRefused s).2 [0x12#7] ∧ (writeRefused s).2.cell 0x12#7 = s.cell 0x12#7 ||| 0x02#8 :=
  ⟨onlyCells_setCell _ _ _, by simp [writeRefused, withError_invalidReg]⟩

/-- Settles O20: both rows refuse the write. -/
theorem refusedWritesComplete : Obligations.RefusedWritesComplete := by
  unfold Obligations.RefusedWritesComplete
  intro v s
  obtain ⟨hcells, herror⟩ := onlyCells_writeRefused s
  refine ⟨fun a => ⟨_, rfl, onlyCells_takeByte _ hcells, herror⟩, fun a _ => ?_⟩
  refine ⟨takeByte (outsideAddr a) (writeRefused s), rfl, ?_, herror⟩
  rw [← outsideAddr_eq_add]
  exact onlyCells_takeByte _ hcells

/-- What a write of CONTROL changes in the bank (R87). -/
theorem cell_writeControl (v : Byte) (s : State) (a : RegAddr) :
    (writeControl v s).2.cell a =
      if a = 0x10#7 then v &&& 0x39#8
      else if v[1] = true ∧ (a = 0x60#7 ∨ a = 0x61#7 ∨ a = 0x62#7) then 0#8
      else if v[2] = true ∧ (a = 0x52#7 ∨ a = 0x53#7) then 0#8
      else if v[2] = true ∧ a = 0x11#7 then s.cell 0x11#7 &&& 0xDF#8
      else s.cell a := by
  rw [writeControl, cell_controlActions]
  rcases eq_or_ne a 0x10#7 with rfl | h10
  · simp
  · simp [h10]

/-- Outside the bank a write of CONTROL changes nothing but the two counters of R32, which RESET_ENCODER zeroes (R87). -/
theorem writeControl_frame (v : Byte) (s : State) :
    (writeControl v s).2 = { s with
      bank := (writeControl v s).2.bank
      position := if v[1] then 0#16 else s.position
      deltaAccum := if v[1] then 0#8 else s.deltaAccum } := by
  have h := controlActions_frame (s.setCell 0x10#7 v)
  rw [State.cell_setCell, if_pos rfl] at h
  exact h

/-- Settles O21: the cells and the counters after a write of CONTROL, by the two action bits of the byte. -/
theorem controlWriteCompletes : Obligations.ControlWriteCompletes := by
  unfold Obligations.ControlWriteCompletes
  intro v s
  have hframe := writeControl_frame v s
  have hposition : (writeControl v s).2.position = if v[1] then 0#16 else s.position := congrArg State.position hframe
  have hdelta : (writeControl v s).2.deltaAccum = if v[1] then 0#8 else s.deltaAccum := congrArg State.deltaAccum hframe
  rw [show v.getLsbD 1 = v[1] from rfl, show v.getLsbD 2 = v[2] from rfl]
  refine ⟨takeByte 0x10#8 (writeControl v s), rfl, ?frame, ?others, ?control, ?reset, ?noReset, ?clear, ?noClear⟩
  case frame =>
    rw [takeByte, State.pastAddress, hframe]
    rfl
  case others =>
    intro a ha
    simp only [List.mem_cons, List.not_mem_nil, or_false, not_or] at ha
    rw [cell_takeByte, cell_writeControl]
    simp [ha]
  case control => rw [cell_takeByte, cell_writeControl, if_pos rfl]
  case reset =>
    intro h1
    refine ⟨hposition.trans (if_pos h1), hdelta.trans (if_pos h1), fun a ha => ?_⟩
    rw [cell_takeByte, cell_writeControl, if_neg (by revert a; decide), if_pos ⟨h1, by simpa using ha⟩]
  case noReset =>
    intro h1
    refine ⟨hposition.trans (by simp [h1]), hdelta.trans (by simp [h1]), fun a ha => ?_⟩
    obtain ⟨h10, h52, h53, h11⟩ : a ≠ 0x10#7 ∧ a ≠ 0x52#7 ∧ a ≠ 0x53#7 ∧ a ≠ 0x11#7 := by revert a; decide
    rw [cell_takeByte, cell_writeControl]
    simp [h1, h10, h52, h53, h11]
  case clear =>
    intro h2
    refine ⟨?_, fun a ha => ?_⟩
    · rw [cell_takeByte, cell_writeControl]
      simp [h2]
    · obtain ⟨h10, h60, h61, h62⟩ : a ≠ 0x10#7 ∧ a ≠ 0x60#7 ∧ a ≠ 0x61#7 ∧ a ≠ 0x62#7 := by revert a; decide
      rw [cell_takeByte, cell_writeControl, if_neg h10, if_neg (by simp [h60, h61, h62]),
        if_pos ⟨h2, by simpa using ha⟩]
  case noClear =>
    intro h2 a ha
    obtain ⟨h10, h60, h61, h62⟩ : a ≠ 0x10#7 ∧ a ≠ 0x60#7 ∧ a ≠ 0x61#7 ∧ a ≠ 0x62#7 := by revert a; decide
    rw [cell_takeByte, cell_writeControl]
    simp [h2, h10, h60, h61, h62]

/-- Settles O22: the command decoded is `ExecuteCommand` of the byte, which the write at the command port runs. -/
theorem commandWriteRunsCommand : Obligations.CommandWriteRunsCommand :=
  fun v s => ⟨_, exec_decodeCommand v s, rfl⟩

/-! Commands. -/

/-- Settles O23: each of the nine arms gives the state back. -/
theorem acceptedCommandsChangeNothing : Obligations.AcceptedCommandsChangeNothing := by
  unfold Obligations.AcceptedCommandsChangeNothing
  intro s i hi
  fin_cases hi <;> rfl

/-- Settles O24: the cells by evaluation of BankInit. -/
theorem softResetCompletes : Obligations.SoftResetCompletes := by
  unfold Obligations.SoftResetCompletes
  intro s
  have hzero : ∀ a : RegAddr, a ∉ [0x00#7, 0x01#7, 0x10#7, 0x11#7, 0x30#7, 0x50#7, 0x51#7, 0x71#7] →
      bankInitByte a.toNat = 0x00#8 := by decide
  exact ⟨s.bankInit, rfl, rfl, rfl, rfl, rfl, rfl, rfl, rfl, rfl, rfl, hzero, rfl⟩

/-- A byte that names no command raises INVALID_CMD and is answered with err (R95). -/
theorem executeCommand_unnamed (c : Byte) (s : State) (h : c ∉ Config.namedCommands) :
    executeCommand c s = (.err, s.raiseError .invalidCmd) := by
  have hfixed : c ≠ Config.cmdNop ∧ c ≠ Config.cmdReset ∧ ¬ (c = Config.cmdFactoryReset ∨ c = Config.cmdCalibrateVu) := by
    simp only [Config.mem_namedCommands, not_or] at h ⊢
    tauto
  obtain ⟨hnop, hreset, haccepted⟩ := hfixed
  rw [executeCommand, if_neg hnop, if_neg hreset, if_neg haccepted, if_neg h, ite_self]
  rfl

/-- Settles O25: the raise sets one bit, and a second raise finds it set. -/
theorem invalidCommandCompletes : Obligations.InvalidCommandCompletes := by
  unfold Obligations.InvalidCommandCompletes
  intro c s hc
  refine ⟨congrArg Except.ok (decodeCommand_unnamed c hc), fun u => executeCommand_unnamed c u hc, ?_⟩
  refine ⟨s.raiseError .invalidCmd, rfl, onlyCells_setCell _ _ _, by simp [withError_invalidCmd], ?_⟩
  refine ⟨(s.raiseError .invalidCmd).raiseError .invalidCmd, rfl, rfl, fun a _ => ?_⟩
  rcases eq_or_ne a 0x12#7 with rfl | ha
  · simp [withError_invalidCmd, BitVec.or_assoc]
  · simp [ha]

/-- Settles O11: nothing is listed, and the initial values meet the invariant. -/
theorem resetMeetsInvariant : Obligations.ResetMeetsInvariant :=
  ⟨Memory.wf_nil, ⟨rfl, rfl, rfl, rfl⟩, rfl⟩

/-- Settles O12: the cells by evaluation of BankInit, the rest as `State.reset` states it. -/
theorem powerOnValues : Obligations.PowerOnValues := by
  unfold Obligations.PowerOnValues
  refine ⟨?cells, rfl, rfl, ?times, rfl, rfl, rfl, rfl, rfl, rfl, rfl, rfl, ?duties⟩
  case cells =>
    simp only [State.cell_reset]
    decide
  case times =>
    intro i
    simp [State.reset]
  case duties =>
    intro ch
    cases ch <;> rfl

end Sys2Proof.Machine
end

section
/-! The transactions of the endpoint (44_i2c_endpoint.md section 2): what a frame runs, as the byte loops at its pointer,
and the frames of both transactions. -/
namespace Sys2Proof.Machine

open Sys2Proof.Safety

/-! A transaction's byte loops are the runs of the per-byte instructions (R8, R70). -/

theorem runWrites_eq (data : List Byte) (s : State) : runWrites data s = .next (writeBytes data s) := by
  induction data generalizing s with
  | nil => rfl
  | cons v rest ih => rw [runWrites, exec_decodeWrite, writeBytes, ← ih]

theorem runReads_eq (n : Nat) (s : State) : runReads n s = .next (readBytes n s) := by
  induction n generalizing s with
  | zero => rfl
  | succ k ih => rw [runReads, exec_decodeRead, readBytes, ← ih]

theorem raiseIfOverflow_of_le (n : Nat) (s : State) (h : n ≤ 32) : raiseIfOverflow n s = s :=
  if_neg (not_lt.mpr h)

theorem raiseIfOverflow_of_lt (n : Nat) (s : State) (h : 32 < n) :
    raiseIfOverflow n s = s.setCell 0x12#7 (s.cell 0x12#7 ||| 0x01#8) := if_pos h

/-! Writes. -/

theorem exec_i2cWrite (reg : Byte) (data : List Byte) (s : State) :
    exec (.i2cWrite reg data) s =
      .next (writeBytes (data.take 31) { raiseIfOverflow (data.length + 1) s with ptr := reg }) := rfl

/-- A frame of at most 32 data bytes writes them all and raises nothing of its own (R118). -/
theorem exec_i2cWrite_short (reg : Byte) (data : List Byte) (s : State) (h : data.length ≤ 31) :
    exec (.i2cWrite reg data) s = .next (writeBytes data { s with ptr := reg }) := by
  rw [exec_i2cWrite, raiseIfOverflow_of_le _ s (by omega), List.take_of_length_le h]

/-- A pointer write sets the pointer and does nothing else (R118). -/
@[simp] theorem exec_pointerWrite (reg : Byte) (s : State) : exec (.i2cWrite reg []) s = .next { s with ptr := reg } := rfl

/-- Settles O27: no overflow is raised, and the byte loop is the run of the selected writes. -/
theorem writeFrameRunsItsBytes : Obligations.WriteFrameRunsItsBytes := by
  unfold Obligations.WriteFrameRunsItsBytes
  intro reg data s h
  exact ⟨_, exec_i2cWrite_short reg data s h, runWrites_eq _ _, writeBytes_ptr _ _⟩

/-- Settles O28: the overflow is raised first, and the byte loop runs over the first 31 bytes after REG. -/
theorem longWriteFrameOverflows : Obligations.LongWriteFrameOverflows := by
  unfold Obligations.LongWriteFrameOverflows
  intro reg data s h
  have hlength : (data.take 31).length = 31 := List.length_take_of_le (by omega)
  refine ⟨_, exec_i2cWrite reg data s, ?_, ?_⟩
  · rw [runWrites_eq, raiseIfOverflow_of_lt _ s (by omega)]
  · rw [writeBytes_ptr, hlength]

/-- The bytes a write frame honours move to their addresses (R118). -/
theorem moves_of_take {reg : Byte} {data : List Byte} {k : Nat} {v : Byte} (h : (data.take 31)[k]? = some v) :
    Moves reg data (reg + BitVec.ofNat 8 k) v := by
  obtain ⟨hk, hv⟩ : k < 31 ∧ data[k]? = some v := by simpa [List.getElem?_take] using h
  exact ⟨k, hk, hv, rfl⟩

/-- A property that holds once the overflow is raised and the pointer set, and that each byte moved keeps, holds after the
write frame (R118). -/
theorem exec_i2cWrite_keeps (P : State → Prop) {reg : Byte} {data : List Byte} {s t : State}
    (h : exec (.i2cWrite reg data) s = .next t) (hstart : P { raiseIfOverflow (data.length + 1) s with ptr := reg })
    (hbyte : ∀ v u, Moves reg data u.ptr v → P u → P (takeByte u.ptr (memWrite u.ptr v u))) : P t := by
  obtain rfl := Host.Outcome.next.inj h
  refine writeBytes_keeps P _ _ (fun k v hv u hu => hbyte v u ?_) hstart
  rw [hu]
  exact moves_of_take hv

/-- From `s` to `u` nothing but the bank and the pointer has changed, and in the bank nothing but ERROR and the cells the
honoured bytes of the frame land on. -/
def LandsOnly (reg : Byte) (data : List Byte) (s u : State) : Prop :=
  u = { s with bank := u.bank, ptr := u.ptr } ∧
    ∀ a, a ≠ 0x12#7 → (∀ v, ¬ Moves reg data (busAddr a) v) → u.cell a = s.cell a

theorem landsOnly_raiseError {reg : Byte} {data : List Byte} {s u : State} (h : LandsOnly reg data s u) (e : ErrorBit)
    (p : Byte) : LandsOnly reg data s ((u.raiseError e).pastAddress p) := by
  obtain ⟨hframe, hcell⟩ := h
  refine ⟨by rw [hframe]; rfl, fun a ha hnot => ?_⟩
  simp [ha, hcell a ha hnot]

theorem landsOnly_store {reg : Byte} {data : List Byte} {s u : State} (h : LandsOnly reg data s u) {p v : Byte}
    (hmoves : Moves reg data p v) (hp : p < 0x80#8) :
    LandsOnly reg data s ((u.setCell (cellAddr p) v).pastAddress p) := by
  obtain ⟨hframe, hcell⟩ := h
  refine ⟨by rw [hframe]; rfl, fun a ha hnot => ?_⟩
  have hne : a ≠ cellAddr p := by
    rintro rfl
    exact hnot v ((busAddr_cellAddr p hp).symm ▸ hmoves)
  simp [hne, hcell a ha hnot]

/-- Settles O29: a byte that reaches neither CONTROL nor the command port is refused or stored where it lands. -/
theorem writeFrameTouchesItsCells : Obligations.WriteFrameTouchesItsCells := by
  unfold Obligations.WriteFrameTouchesItsCells
  intro reg data s hcontrol hport
  refine ⟨_, exec_i2cWrite reg data s, exec_i2cWrite_keeps (LandsOnly reg data s) rfl ⟨?_, fun a ha _ => ?_⟩ ?_⟩
  · rw [raiseIfOverflow_frame]
  · exact (cell_raiseIfOverflow _ s a).trans (if_neg fun h => ha h.1)
  · intro v u hmoves hlands
    rcases memWrite_cases u.ptr v u with ⟨-, hw⟩ | ⟨hp, -⟩ | ⟨hp, -⟩ | ⟨⟨-, hp, -⟩, hw⟩
    · rw [hw]
      exact landsOnly_raiseError hlands .invalidReg u.ptr
    · exact absurd (hp ▸ hmoves) (hport v)
    · exact absurd (hp ▸ hmoves) (hcontrol v)
    · rw [hw]
      exact landsOnly_store hlands hmoves hp

/-- Settles O36: RESET empties the bank, and the byte after it is refused. -/
theorem resetInFrameKeepsLaterError : Obligations.ResetInFrameKeepsLaterError := by
  unfold Obligations.ResetInFrameKeepsLaterError
  intro x s
  have hreset (u : State) : memWrite 0xF0#8 0x01#8 u = (.ok, u.bankInit) := rfl
  have hrefused (u : State) : memWrite 0xF1#8 x u = (.err, u.raiseError .invalidReg) :=
    memWrite_refused 0xF1#8 x u (by decide)
  have hframe : writeBytes [0x01#8, x] { s with ptr := 0xF0#8 } =
      (({ s with ptr := 0xF1#8 } : State).bankInit.raiseError .invalidReg).pastAddress 0xF1#8 := by
    simp only [writeBytes, takeByte, hreset]
    exact congrArg (fun r => State.pastAddress r.2 0xF1#8) (hrefused _)
  refine ⟨_, exec_i2cWrite_short 0xF0#8 [0x01#8, x] s (by simp), ?_⟩
  rw [hframe]
  refine ⟨?_, rfl, fun a ha => ?_, rfl⟩
  · simp
    rfl
  · simp [ha]

/-! Reads. -/

/-- The bytes a read of `n` bytes draws past the buffer, when `d` were drawn before (R120, D6). -/
def drawnBytes (n d : Nat) : List Byte := (List.range (n - 32)).map (fun k => Config.freeByte (d + k))

/-- A read frame is its first 32 reads, then the overflow and the drawn bytes (R120). -/
theorem exec_i2cRead (n : Nat) (s t : State) (hn : 1 ≤ n) (ht : t = readBytes (min n 32) { s with dataOut := [] }) :
    exec (.i2cRead n) s = .next { t with
      bank := (raiseIfOverflow n t).bank
      dataOut := t.dataOut ++ drawnBytes n s.draws
      returned := s.returned ++ [t.dataOut ++ drawnBytes n s.draws]
      draws := s.draws + (n - 32) } := by
  have hdraws : t.draws = s.draws := by rw [ht, readBytes_draws]
  have hreturned : t.returned = s.returned := by rw [ht, readBytes_returned]
  have hn : n ≠ 0 := by omega
  change execI2cRead n s = _
  rw [execI2cRead, if_neg hn, readTransaction, Config.i2cBuf, ← ht]
  simp only [drawBytes_eq]
  rw [raiseIfOverflow_frame]
  simp only [hdraws, hreturned, drawnBytes]

/-- A read of 1 to 32 bytes is its reads (R120). -/
theorem exec_i2cRead_short (n : Nat) (s t : State) (hn : 1 ≤ n) (h32 : n ≤ 32)
    (ht : t = readBytes n { s with dataOut := [] }) :
    exec (.i2cRead n) s = .next { t with returned := s.returned ++ [t.dataOut] } := by
  have hdraws : t.draws = s.draws := by rw [ht, readBytes_draws]
  have hnone : n - 32 = 0 := by omega
  rw [exec_i2cRead n s t hn (by rwa [Nat.min_eq_left h32]), raiseIfOverflow_of_le n t h32, drawnBytes, hnone, ← hdraws]
  simp

/-- Settles O30: the byte loop is the run of the selected reads, and nothing is drawn. -/
theorem readFrameRunsItsBytes : Obligations.ReadFrameRunsItsBytes := by
  unfold Obligations.ReadFrameRunsItsBytes
  intro n s hn h32
  refine ⟨_, runReads_eq n _, ?_, readBytes_ptr n _, exec_i2cRead_short n s _ hn h32 rfl⟩
  rw [readBytes_length]
  exact Nat.zero_add n

/-- Settles O31: the state after the 32 reads, with the overflow raised and the drawn bytes appended. -/
theorem longReadFrameOverflows : Obligations.LongReadFrameOverflows := by
  unfold Obligations.LongReadFrameOverflows
  intro n s hn
  have hmin : min n 32 = 32 := by omega
  obtain ⟨t, ht⟩ : ∃ t, t = readBytes 32 { s with dataOut := [] } := ⟨_, rfl⟩
  have hptr : t.ptr = s.ptr + 32#8 := by rw [ht, readBytes_ptr]
  refine ⟨t, _, ht ▸ runReads_eq 32 _, exec_i2cRead n s t (by omega) (hmin.symm ▸ ht), rfl, ?_, hptr, rfl, fun a ha => ?_⟩
  · exact (cell_raiseIfOverflow n t _).trans (if_pos ⟨rfl, hn⟩)
  · exact (cell_raiseIfOverflow n t a).trans (if_neg fun h => ha h.1)

/-- The bytes of a read change no cell but STATUS, ERROR and the two changed bitmaps (R78). -/
theorem cell_readBytes (n : Nat) (s : State) (a : RegAddr) (ha : a ∉ [0x11#7, 0x12#7, 0x52#7, 0x53#7]) :
    (readBytes n s).cell a = s.cell a := by
  refine readBytes_rel (fun s t => t.cell a = s.cell a) (fun _ => rfl) (fun _ _ _ h1 h2 => h2.trans h1) (fun u => ?_) n s
  simp only [List.mem_cons, List.not_mem_nil, or_false, not_or] at ha
  rw [State.cell_supplyByte, cell_memRead]
  simp [ha]

/-- Settles O32: the reads touch the four cells alone, the overflow touches ERROR, and drawing touches none. -/
theorem readFrameTouchesFlagsOnly : Obligations.ReadFrameTouchesFlagsOnly := by
  unfold Obligations.ReadFrameTouchesFlagsOnly
  intro n s hn
  obtain ⟨t, ht⟩ : ∃ t, t = readBytes (min n 32) { s with dataOut := [] } := ⟨_, rfl⟩
  have hframe : t = { s with bank := t.bank, ptr := t.ptr, dataOut := t.dataOut } := by
    rw [ht]
    exact readBytes_frame _ _
  have hlength : t.dataOut.length = min n 32 := by
    rw [ht, readBytes_length]
    exact Nat.zero_add _
  have hcell (a : RegAddr) (ha : a ∉ [0x11#7, 0x12#7, 0x52#7, 0x53#7]) : t.cell a = s.cell a := by
    rw [ht]
    exact cell_readBytes _ _ a ha
  refine ⟨_, exec_i2cRead n s t hn ht, ?_, ?_, fun a ha => ?_⟩
  · rw [hframe]
  · simp only [List.length_append, hlength, drawnBytes, List.length_map, List.length_range]
    omega
  · have h12 : a ≠ 0x12#7 := by rintro rfl; exact ha (by decide)
    exact ((cell_raiseIfOverflow n t a).trans (if_neg fun h => h12 h.1)).trans (hcell a ha)

/-- Settles O35: the read of 0x52 leaves the flag when 0x53 is not zero, and the read of 0x53 then clears it. -/
theorem readingBothBitmapsClearsThem : Obligations.ReadingBothBitmapsClearsThem := by
  unfold Obligations.ReadingBothBitmapsClearsThem
  intro s hptr
  obtain ⟨u, hu⟩ : ∃ u, u = supplyByte 0x52#8 (memRead 0x52#8 { s with dataOut := [] }) := ⟨_, rfl⟩
  obtain ⟨t, ht⟩ : ∃ t, t = supplyByte 0x53#8 (memRead 0x53#8 u) := ⟨_, rfl⟩
  have hread : t = readBytes 2 { s with dataOut := [] } := by
    rw [ht, hu]
    simp only [readBytes, hptr, State.supplyByte_ptr]
    rfl
  have hucell (a : RegAddr) : u.cell a = if a = 0x52#7 then 0#8
      else if a = 0x11#7 ∧ s.cell 0x53#7 = 0#8 then s.cell 0x11#7 &&& 0xDF#8 else s.cell a := by
    rw [hu, State.cell_supplyByte, cell_memRead]
    simp
  have htcell (a : RegAddr) : t.cell a = if a = 0x53#7 then 0#8
      else if a = 0x11#7 then u.cell 0x11#7 &&& 0xDF#8 else u.cell a := by
    rw [ht, State.cell_supplyByte, cell_memRead]
    simp [hucell]
  have hudata : u.dataOut = [s.cell 0x52#7] := by rw [hu, State.supplyByte_dataOut, memRead_dataOut, memRead_value]; rfl
  have htdata : t.dataOut = [s.cell 0x52#7, u.cell 0x53#7] := by
    rw [ht, State.supplyByte_dataOut, memRead_dataOut, memRead_value, hudata]
    rfl
  refine ⟨_, exec_i2cRead_short 2 s t (by decide) (by decide) hread, ?_, ?_, ?_, ?_, ?_⟩
  · simpa [hucell] using htdata
  · exact (htcell 0x52#7).trans (by simp [hucell])
  · exact (htcell 0x53#7).trans (by simp)
  · refine (htcell 0x11#7).trans ?_
    by_cases h53 : s.cell 0x53#7 = 0#8
    · simp [hucell, h53, BitVec.and_assoc]
    · simp [hucell, h53]
  · rw [ht]
    rfl

end Sys2Proof.Machine
end

section
/-! Plain cells in a frame (44_i2c_endpoint.md section 3): a write of a block stores it, a read of a block returns it and
changes nothing, so that a block reads back. Addresses are natural numbers here, since a block does not wrap. -/
namespace Sys2Proof.Machine

open Sys2Proof.Safety

/-- The bytes of a write to plain cells are stored, each in its own cell (R85). -/
theorem cell_writeBytes_plain (data : List Byte) (n : Nat) (s : State) (hptr : s.ptr = BitVec.ofNat 8 n)
    (hplain : ∀ x, n ≤ x → x < n + data.length → 0x04 ≤ x ∧ x < 0x80 ∧ x ≠ 0x10) (a : RegAddr) :
    (writeBytes data s).cell a = if n ≤ a.toNat then data.getD (a.toNat - n) (s.cell a) else s.cell a := by
  induction data generalizing n s with
  | nil => simp [writeBytes]
  | cons v rest ih =>
    obtain ⟨h04, h80, h10⟩ := hplain n le_rfl (by simp)
    have hstore : memWrite s.ptr v s = (.ok, s.setCell (cellAddr s.ptr) v) := by
      rw [hptr]
      exact memWrite_plain _ v s (by bv_omega) (by bv_omega) (by bv_omega)
    have haddr : a = cellAddr s.ptr ↔ a.toNat = n := by
      rw [hptr, cellAddr]
      bv_omega
    have hrest := ih (n + 1) (takeByte s.ptr (memWrite s.ptr v s)) (by simp [takeByte, hptr, BitVec.ofNat_add])
      (fun x hx hlt => hplain x (by omega) (by simp; omega))
    rw [writeBytes, hrest, cell_takeByte, hstore, State.cell_setCell]
    rcases lt_trichotomy a.toNat n with h | h | h
    · rw [if_neg (by omega), if_neg (by rw [haddr]; omega), if_neg (by omega)]
    · rw [if_neg (by omega), if_pos (haddr.mpr h), if_pos h.ge, h, Nat.sub_self, List.getD_cons_zero]
    · obtain ⟨j, hj⟩ : ∃ j, a.toNat - n = j + 1 := ⟨a.toNat - n - 1, by omega⟩
      rw [if_pos (by omega), if_neg (by rw [haddr]; omega), if_pos (by omega), hj, List.getD_cons_succ,
        show a.toNat - (n + 1) = j by omega]

/-- The bytes of a read of cells without side effects are the cells, and nothing else changes (R79). -/
theorem readBytes_plain (k n : Nat) (s : State) (hptr : s.ptr = BitVec.ofNat 8 n)
    (hplain : ∀ x, n ≤ x → x < n + k → x < 0x80 ∧ x ≠ 0x52 ∧ x ≠ 0x53 ∧ x ≠ 0x62) :
    readBytes k s = { s with
      ptr := BitVec.ofNat 8 (n + k)
      dataOut := s.dataOut ++ (List.range' n k).map (fun x => s.cell (BitVec.ofNat 7 x)) } := by
  induction k generalizing n s with
  | zero => simp [readBytes, ← hptr]
  | succ k ih =>
    obtain ⟨h80, h52, h53, h62⟩ := hplain n le_rfl (by omega)
    have hread : memRead s.ptr s = (s.cell (BitVec.ofNat 7 n), s) := by
      rw [hptr, memRead_plain _ s (by bv_omega) (by bv_omega) (by bv_omega) (by bv_omega), readPlain,
        show cellAddr (BitVec.ofNat 8 n) = BitVec.ofNat 7 n by rw [cellAddr]; bv_omega]
    rw [readBytes, hread, ih (n + 1) _ (by simp [hptr, BitVec.ofNat_add]) (fun x hx hlt => hplain x (by omega) (by omega)),
      List.range'_succ, show n + 1 + k = n + (k + 1) by omega]
    simp [supplyByte]

/-- A read of 1 to 32 cells without side effects completes and returns them (R79, R120). -/
theorem exec_i2cRead_plain (k n : Nat) (s : State) (hk : 1 ≤ k) (h32 : k ≤ 32) (hptr : s.ptr = BitVec.ofNat 8 n)
    (hplain : ∀ x, n ≤ x → x < n + k → x < 0x80 ∧ x ≠ 0x52 ∧ x ≠ 0x53 ∧ x ≠ 0x62) :
    ∃ t, exec (.i2cRead k) s = .next t ∧ t.dataOut = (List.range' n k).map (fun x => s.cell (BitVec.ofNat 7 x)) ∧
      t = { s with ptr := BitVec.ofNat 8 (n + k), dataOut := t.dataOut, returned := t.returned } := by
  have hbytes := readBytes_plain k n { s with dataOut := [] } hptr hplain
  exact ⟨_, exec_i2cRead_short k s _ hk h32 hbytes.symm, rfl, rfl⟩

/-- Settles O33: the frame stores the block in its cells, and the read returns those cells. -/
theorem writtenBlockReadsBack : Obligations.WrittenBlockReadsBack := by
  unfold Obligations.WrittenBlockReadsBack
  intro a data s h04 hpos h31 h80 hspecial
  have hskip (x : Nat) (hx : x ∈ [0x10, 0x11, 0x12, 0x50, 0x51, 0x52, 0x53, 0x60, 0x61, 0x62, 0x63]) (y : Nat)
      (hlow : a ≤ y) (hhigh : y < a + data.length) : y ≠ x := by
    have := hspecial x hx
    omega
  let t := writeBytes data { s with ptr := BitVec.ofNat 8 a }
  have ht := cell_writeBytes_plain data a { s with ptr := BitVec.ofNat 8 a } rfl
    (fun x hlow hhigh => ⟨by omega, by omega, hskip 0x10 (by decide) x hlow hhigh⟩)
  obtain ⟨w, hw, hdata, -⟩ := exec_i2cRead_plain data.length a { t with ptr := BitVec.ofNat 8 a } hpos (by omega) rfl
    (fun x hlow hhigh => ⟨by omega, hskip 0x52 (by decide) x hlow hhigh, hskip 0x53 (by decide) x hlow hhigh,
      hskip 0x62 (by decide) x hlow hhigh⟩)
  refine ⟨t, _, w, exec_i2cWrite_short _ data s h31, exec_pointerWrite _ t, hw, ?_⟩
  rw [hdata]
  refine List.ext_getElem (by simp) fun k hk hk' => ?_
  have haddr : (BitVec.ofNat 7 (a + k)).toNat = a + k := by
    rw [BitVec.toNat_ofNat]
    omega
  have hcell := ht (BitVec.ofNat 7 (a + k))
  rw [haddr, if_pos (by omega), Nat.add_sub_cancel_left, List.getD_eq_getElem _ _ hk'] at hcell
  simpa using hcell

/-- Settles O34: the four identity cells are read without side effects. -/
theorem identityReadsBack : Obligations.IdentityReadsBack := by
  unfold Obligations.IdentityReadsBack
  rintro s ⟨h0, h1, h2, h3⟩
  obtain ⟨u, hu, hdata, hframe⟩ := exec_i2cRead_plain 4 0 { s with ptr := 0x00#8 } (by decide) (by decide) rfl
    (fun x _ _ => by omega)
  have hvalues : u.dataOut = [s.cell 0x00#7, s.cell 0x01#7, s.cell 0x02#7, s.cell 0x03#7] := hdata
  refine ⟨_, u, exec_pointerWrite _ s, hu, by rw [hvalues, h0, h1, h2, h3], by rw [hframe], ?_, fun a _ => ?_⟩
  · rw [hframe]
  · rw [hframe]

end Sys2Proof.Machine
end

section
/-! A whole tick (45_main_tick.md section 1): when it completes, its frame, the debounce of the channels and the
publication of the inputs, and STATUS.ERROR. -/
namespace Sys2Proof.Machine

open Sys2Proof.Safety

theorem exec_tick (s : State) (h : 10#32 ≤ s.now - s.lastTick) : exec .tick s = .next (tickBody s) :=
  if_pos (decide_eq_true h)

theorem exec_tick_refused (s : State) (h : s.now - s.lastTick < 10#32) : exec .tick s = .refused .tickNotEnabled :=
  if_neg fun henabled => absurd (of_decide_eq_true henabled) (BitVec.not_le.mpr h)

/-! The frame. -/

/-- Outside the bank the Input Engine phase changes the debounce state and the button's, and zeroes the accumulator
(R107). -/
theorem inputPhase_frame (t : Millis) (s : State) :
    inputPhase t s = { s with
      bank := (inputPhase t s).bank
      stable := (inputPhase t s).stable
      lastChange := (inputPhase t s).lastChange
      deltaAccum := 0#8
      button := (inputPhase t s).button
      pressTime := (inputPhase t s).pressTime
      lastRelease := (inputPhase t s).lastRelease } := by
  rw [inputPhase_eq, buttonPhase_frame, encoderPublication_frame, debouncePhase_frame]

/-- Outside the bank a tick changes the debounce state, the button's and the duties, zeroes the accumulator and takes the
time (R123). -/
theorem tickBody_changes (s : State) :
    tickBody s = { s with
      bank := (tickBody s).bank
      stable := (tickBody s).stable
      lastChange := (tickBody s).lastChange
      deltaAccum := 0#8
      button := (tickBody s).button
      pressTime := (tickBody s).pressTime
      lastRelease := (tickBody s).lastRelease
      lastTick := s.now
      duty := (tickBody s).duty } := by
  have htick := tickBody_frame s
  have hinput := inputPhase_frame s.now s.atTick
  generalize inputPhase s.now s.atTick = u at htick hinput
  generalize tickBody s = t at htick ⊢
  rw [htick, hinput]
  rfl

/-- A tick changes no cell but STATUS, the input registers 0x50 to 0x53 and the encoder registers 0x60 to 0x63 (R123). -/
theorem cell_tickBody_other (s : State) (a : RegAddr)
    (ha : a ∉ [0x11#7, 0x50#7, 0x51#7, 0x52#7, 0x53#7, 0x60#7, 0x61#7, 0x62#7, 0x63#7]) :
    (tickBody s).cell a = s.cell a := by
  rw [cell_tickBody s a (List.ne_of_not_mem_cons ha), cell_inputPhase _ _ a ha, State.cell_atTick]

/-- A tick leaves STATUS.READY (R123). -/
theorem ready_tickBody (s : State) : ((tickBody s).cell 0x11#7).getLsbD 0 = (s.cell 0x11#7).getLsbD 0 := by
  have hinput : ((inputPhase s.now s.atTick).cell 0x11#7).getLsbD 0 = (s.cell 0x11#7).getLsbD 0 := by
    rw [inputPhase_eq, status_buttonPhase _ _ _ (by decide), status_encoderPublication,
      status_debouncePhase _ _ _ (by decide)]
    simp
  rw [← hinput, tickBody_eq]
  simp [updateStatusError, cell_outputPhase]

/-- Settles O37: the frames of the phases, one after another. -/
theorem tickCompletes : Obligations.TickCompletes := by
  unfold Obligations.TickCompletes
  intro s h
  exact ⟨_, exec_tick s h, tickBody_changes s, cell_tickBody_other s, ready_tickBody s⟩

/-! The debounce and the publication of the inputs. -/

/-- The stable bitmap and the commit times after a tick are those its debounce commits (R97). -/
theorem commits_tickBody (s : State) :
    (tickBody s).stable = (commitChannels s.now s).stable ∧
      (tickBody s).lastChange = (commitChannels s.now s).lastChange := by
  rw [tickBody_frame, inputPhase_eq, buttonPhase_frame, encoderPublication_frame, debouncePhase, publishInputs_frame]
  exact ⟨rfl, rfl⟩

/-- Settles O38: a channel takes its level and the time exactly where it commits. -/
theorem tickDebouncesEachChannel : Obligations.TickDebouncesEachChannel := by
  unfold Obligations.TickDebouncesEachChannel
  intro s h
  obtain ⟨hstable, htimes⟩ := commits_tickBody s
  refine ⟨_, exec_tick s h, fun i => ?_⟩
  rw [hstable, htimes, stable_commitChannels, lastChange_commitChannels, ← commits_iff]
  exact ⟨fun hcommits => ⟨if_pos hcommits, if_pos hcommits⟩, fun hcommits => ⟨if_neg hcommits, if_neg hcommits⟩⟩

theorem getLsbD_inputsLow (m : BitVec 12) (k : Nat) (hk : k < 8) : (inputsLow m).getLsbD k = m.getLsbD k := by
  simp [inputsLow, hk]

theorem getLsbD_inputsHigh (m : BitVec 12) (k : Nat) :
    (inputsHigh m).getLsbD k = (decide (k < 4) && m.getLsbD (8 + k)) := by
  by_cases hk : k < 4
  · simp [inputsHigh, hk, show k < 8 by omega]
  · simp [inputsHigh, hk]

/-- The input registers after a tick are those its debounce phase publishes (R98). -/
theorem cell_tickBody_inputs (s : State) (a : RegAddr) (ha : a ∈ [0x50#7, 0x51#7, 0x52#7, 0x53#7]) :
    (tickBody s).cell a = (debouncePhase s.now s.atTick).cell a := by
  obtain ⟨h11, h60, h61, h62, h63⟩ : a ≠ 0x11#7 ∧ a ≠ 0x60#7 ∧ a ≠ 0x61#7 ∧ a ≠ 0x62#7 ∧ a ≠ 0x63#7 := by
    revert a; decide
  rw [cell_tickBody s a h11, inputPhase_eq, cell_buttonPhase _ _ _ h11, if_neg h63, cell_encoderPublication]
  simp [h11, h60, h61, h62]

/-- What the input registers hold after a tick (R98). -/
theorem inputCells_tickBody (s : State) :
    (tickBody s).cell 0x50#7 = inputsLow (tickBody s).stable ∧
    (tickBody s).cell 0x51#7 = inputsHigh (tickBody s).stable ∧
    (tickBody s).cell 0x52#7 = s.cell 0x52#7 ||| inputsLow (s.stable ^^^ (tickBody s).stable) ∧
    (tickBody s).cell 0x53#7 = s.cell 0x53#7 ||| inputsHigh (s.stable ^^^ (tickBody s).stable) := by
  rw [cell_tickBody_inputs s _ (by decide), cell_tickBody_inputs s _ (by decide), cell_tickBody_inputs s _ (by decide),
    cell_tickBody_inputs s _ (by decide), (commits_tickBody s).1]
  simp only [debouncePhase, cell_publishInputs]
  exact ⟨rfl, rfl, rfl, rfl⟩

/-- The publication of the inputs sets STATUS.INPUT_CHANGED where a bitmap is then not zero, and never clears it (D15). -/
theorem inputChanged_publishInputs (c : BitVec 12) (s : State) :
    ((publishInputs c s).cell 0x11#7).getLsbD 5 =
      ((s.cell 0x11#7).getLsbD 5 || (s.cell 0x52#7 ||| inputsLow c) != 0x00#8 ||
        (s.cell 0x53#7 ||| inputsHigh c) != 0x00#8) := by
  rw [cell_publishInputs, if_neg (by decide), if_neg (by decide), if_neg (by decide), if_neg (by decide)]
  generalize s.cell 0x52#7 ||| inputsLow c = low
  generalize s.cell 0x53#7 ||| inputsHigh c = high
  by_cases hlow : low = 0#8 <;> by_cases hhigh : high = 0#8 <;> simp [hlow, hhigh]

/-- STATUS.INPUT_CHANGED after a tick (R98, D15). -/
theorem inputChanged_tickBody (s : State) :
    ((tickBody s).cell 0x11#7).getLsbD 5 =
      ((s.cell 0x11#7).getLsbD 5 || (tickBody s).cell 0x52#7 != 0x00#8 || (tickBody s).cell 0x53#7 != 0x00#8) := by
  obtain ⟨-, -, h52, h53⟩ := inputCells_tickBody s
  rw [status_tickBody s 5 (by decide), inputPhase_eq, status_buttonPhase _ _ 5 (by decide), status_encoderPublication,
    debouncePhase, inputChanged_publishInputs, h52, h53, (commits_tickBody s).1]
  exact Bool.or_false _

/-- Settles O39: the bits of the input registers and of STATUS, read off the published bitmaps. -/
theorem tickPublishesInputs : Obligations.TickPublishesInputs := by
  unfold Obligations.TickPublishesInputs
  intro s h
  obtain ⟨h50, h51, h52, h53⟩ := inputCells_tickBody s
  refine ⟨_, exec_tick s h, ?low, ?high, ?upper, inputChanged_tickBody s⟩
  case low =>
    intro k hk
    rw [h50, h52, BitVec.getLsbD_or, getLsbD_inputsLow _ _ hk, getLsbD_inputsLow _ _ hk, BitVec.getLsbD_xor]
    exact ⟨rfl, rfl⟩
  case high =>
    intro k hk
    rw [h51, h53, BitVec.getLsbD_or, getLsbD_inputsHigh, getLsbD_inputsHigh, BitVec.getLsbD_xor, decide_eq_true hk]
    exact ⟨rfl, rfl⟩
  case upper =>
    intro k hk
    rw [h51, h53, BitVec.getLsbD_or, getLsbD_inputsHigh, getLsbD_inputsHigh, decide_eq_false (by omega)]
    exact ⟨rfl, Bool.or_false _⟩

/-! The outputs, STATUS.ERROR and the position. -/

/-- Settles O45: what a tick drives is what the Output Engine drives in the state before it. -/
theorem outputsDependOnActuatorCellsOnly : Obligations.OutputsDependOnActuatorCellsOnly := by
  unfold Obligations.OutputsDependOnActuatorCellsOnly
  intro s u t w ht hw hgate hcell
  obtain rfl := eq_tickBody_of_exec ht
  obtain rfl := eq_tickBody_of_exec hw
  obtain ⟨hduty, hstatus⟩ := SameActuators.outputPhase_eq (s := s) (u := u) ⟨hgate, hcell⟩
  refine ⟨by rw [duty_tickBody, duty_tickBody, hduty], fun k h2 h4 => ?_⟩
  rw [outputStatus_tickBody s k h2 h4, outputStatus_tickBody u k h2 h4, hstatus k h2 h4]

/-- STATUS.ERROR after a tick (R124). -/
theorem statusError_tickBody (s : State) : ((tickBody s).cell 0x11#7).getLsbD 1 = (s.cell 0x12#7 != 0x00#8) := by
  have hinput : (inputPhase s.now s.atTick).cell 0x12#7 = s.cell 0x12#7 := cell_inputPhase _ _ _ (by decide)
  rw [tickBody_eq]
  simp [updateStatusError, cell_outputPhase, hinput]

/-- Settles O46: the tick's last phase, and one cell stored by each of the other operations. -/
theorem tickRecomputesStatusError : Obligations.TickRecomputesStatusError := by
  unfold Obligations.TickRecomputesStatusError
  intro s
  refine ⟨?tick, ?raise, ?error, ?status, ?reset⟩
  case tick =>
    intro t ht
    obtain rfl := eq_tickBody_of_exec ht
    exact ⟨statusError_tickBody s, cell_tickBody_other s _ (by decide)⟩
  case raise =>
    intro e
    simp
  case error =>
    intro v
    exact ⟨_, rfl, by simp [writePlain]⟩
  case status =>
    intro v
    exact ⟨_, rfl, by simp [writePlain]⟩
  case reset => exact ⟨s.bankInit, rfl, rfl, by rw [State.cell_bankInit]; rfl⟩

/-- Settles O47: the two cells are read without side effects, and their bits are those of the position. -/
theorem positionReadsBackAfterTick : Obligations.PositionReadsBackAfterTick := by
  unfold Obligations.PositionReadsBackAfterTick
  intro s h
  obtain ⟨t, ht⟩ : ∃ t, exec .tick s = .next t := ⟨_, exec_tick s h⟩
  obtain ⟨hbits, -⟩ := tickPublishesEncoder s t ht
  obtain ⟨w, hw, hdata, -⟩ := exec_i2cRead_plain 2 0x60 { t with ptr := 0x60#8 } (by decide) (by decide) rfl
    (fun x _ _ => by omega)
  refine ⟨t, _, w, t.cell 0x60#7, t.cell 0x61#7, ht, exec_pointerWrite _ t, hw, hdata, ?_⟩
  apply BitVec.eq_of_getLsbD_eq
  intro k hk
  rw [BitVec.getLsbD_append]
  split_ifs with h8
  · exact (hbits k h8).1
  · rw [(hbits (k - 8) (by omega)).2, Nat.add_sub_cancel' (by omega)]

end Sys2Proof.Machine
end

section
/-! The encoder's edges (42_input_engine.md section 2): the arithmetic of one edge, and the law of a sequence of edges. -/
namespace Sys2Proof.Machine

open Sys2Proof.Safety

/-- The position moves by the step of the table and wraps (R101). -/
theorem movePosition_eq (p : BitVec 16) (d : Int) : movePosition p d = p + BitVec.ofInt 16 d := by
  rw [movePosition, BitVec.ofInt_add, BitVec.ofInt_toInt]

/-- The delta moves by the step of the table and is clamped (R101). -/
theorem toInt_moveDelta (a : BitVec 8) (d : Int) : (moveDelta a d).toInt = max (-128) (min 127 (a.toInt + d)) := by
  rw [moveDelta, sat8, BitVec.toInt_ofInt, Int.bmod_eq_of_le] <;> omega

theorem exec_encEdge (s : State) (h : s.encIrqPending = true) : exec .encEdge s = .next (encoderInterrupt s) := if_pos h

/-- Settles O49: the interrupt's work, with the arithmetic of its two counters. -/
theorem encoderEdgeCompletes : Obligations.EncoderEdgeCompletes := by
  unfold Obligations.EncoderEdgeCompletes
  intro s h
  exact ⟨_, exec_encEdge s h, rfl, movePosition_eq _ _, toInt_moveDelta _ _⟩

/-- The state after one edge at the levels `ab` (R101). -/
def afterEdge (ab : Bool × Bool) (s : State) : State := encoderInterrupt (atLevels ab s)

theorem runEdges_cons (ab : Bool × Bool) (rest : List (Bool × Bool)) (s : State) :
    runEdges (ab :: rest) s = runEdges rest (afterEdge ab s) := by
  rw [runEdges, exec_encEdge (atLevels ab s) rfl]
  rfl

/-- A sequence of edges whose partial sums stay within an i8 accumulates its net displacement, and takes no time. -/
theorem runEdges_displacement (levels : List (Bool × Bool)) (s : State)
    (hsums : ∀ k, -128 ≤ s.deltaAccum.toInt + displacement s.prevQuad (levels.take k) ∧
      s.deltaAccum.toInt + displacement s.prevQuad (levels.take k) ≤ 127) :
    ∃ t, runEdges levels s = .next t ∧ t.position = s.position + BitVec.ofInt 16 (displacement s.prevQuad levels) ∧
      t.deltaAccum.toInt = s.deltaAccum.toInt + displacement s.prevQuad levels ∧ t.now = s.now ∧
      t.lastTick = s.lastTick := by
  induction levels generalizing s with
  | nil => exact ⟨s, rfl, by simp [displacement], by simp [displacement], rfl, rfl⟩
  | cons ab rest ih =>
    obtain ⟨d, hd⟩ : ∃ d, d = quadStep s.prevQuad (quadrature ab.1 ab.2) := ⟨_, rfl⟩
    have hposition : (afterEdge ab s).position = s.position + BitVec.ofInt 16 d := hd ▸ movePosition_eq _ _
    have hdelta : (afterEdge ab s).deltaAccum.toInt = s.deltaAccum.toInt + d := by
      have hfirst : -128 ≤ s.deltaAccum.toInt + d ∧ s.deltaAccum.toInt + d ≤ 127 := by
        simpa [displacement, ← hd] using hsums 1
      have hmoved : (afterEdge ab s).deltaAccum.toInt = max (-128) (min 127 (s.deltaAccum.toInt + d)) :=
        hd ▸ toInt_moveDelta _ _
      omega
    have hquad : (afterEdge ab s).prevQuad = quadrature ab.1 ab.2 := rfl
    obtain ⟨t, ht, hp, ha, hnow, hlast⟩ := ih (afterEdge ab s) (fun k => by
      have hnext := hsums (k + 1)
      rw [List.take_succ_cons, displacement, ← hd] at hnext
      rw [hdelta, hquad]
      omega)
    refine ⟨t, (runEdges_cons ab rest s).trans ht, ?_, ?_, hnow, hlast⟩
    · rw [hp, hposition, hquad, displacement, ← hd, BitVec.ofInt_add, BitVec.add_assoc]
    · rw [ha, hdelta, hquad, displacement, ← hd, Int.add_assoc]

/-- Settles O50: the edges accumulate the displacement, and the tick publishes the accumulator. -/
theorem edgesAccumulateDisplacement : Obligations.EdgesAccumulateDisplacement := by
  unfold Obligations.EdgesAccumulateDisplacement
  intro levels s hzero htick hsums
  have hstart : s.deltaAccum.toInt = 0 := by rw [hzero]; rfl
  obtain ⟨t, ht, hposition, hdelta, hnow, hlast⟩ := runEdges_displacement levels s (by simpa [hstart] using hsums)
  obtain ⟨u, hu⟩ : ∃ u, exec .tick t = .next u := ⟨_, exec_tick t (by rwa [hnow, hlast])⟩
  obtain ⟨-, hpublished, -⟩ := tickPublishesEncoder t u hu
  exact ⟨t, u, ht, hposition, hu, by rw [hpublished, hdelta, hstart, Int.zero_add]⟩

end Sys2Proof.Machine
end

section
/-! Steps (20_memory.md section 3, 45_main_tick.md section 2): what a step does with the event it takes, the environment's
steps, and that an enabled event always has a next state. -/
namespace Sys2Proof.Machine

open Sys2Proof.Safety

/-- A step takes the first pending event and runs it (log 1). -/
theorem step_pending (s : State) (e : Event) (rest : List Event) (h : s.pending = e :: rest) :
    step s = runEvent e { s with pending := rest } := by
  rw [step, nextEvent, afterFetch, h]

/-- With nothing pending a step runs a free choice (R54). -/
theorem step_free (s : State) (h : s.pending = []) : step s = runEvent (freeChoice s) { s with picks := s.picks + 1 } := by
  rw [step, nextEvent, afterFetch, h]

theorem runCode_ok {c : Code} {i : Instr} (s : State) (h : decode c = .ok i) : runCode c s = exec i s := by
  rw [runCode, h]

theorem runCode_elsewhere (b : Byte) (data : List Byte) (s : State) (hwrite : b ≠ 0x84#8) (hread : b ≠ 0x85#8) :
    runCode (.frame (b :: data)) s = .next s := by
  rw [runCode, decode, decodeFrame_elsewhere b data hwrite hread]

/-- Settles O6: the event is taken, and its code is run. -/
theorem stepRunsDecodedInstruction : Obligations.StepRunsDecodedInstruction := by
  unfold Obligations.StepRunsDecodedInstruction
  intro s c rest i hpending hdecode _
  exact (step_pending s _ rest hpending).trans (runCode_ok _ hdecode)

/-- Settles O7: the frame decodes to no instruction, and the step only takes it. -/
theorem frameElsewhereHasNoEffect : Obligations.FrameElsewhereHasNoEffect := by
  unfold Obligations.FrameElsewhereHasNoEffect
  intro s b data rest hpending hwrite hread
  exact (step_pending s _ rest hpending).trans (runCode_elsewhere b data _ hwrite hread)

theorem envTime_next (s : State) (h : s.now + 1#32 ≠ s.lastTick) : envTime s = .next { s with now := s.now + 1#32 } :=
  if_pos (bne_iff_ne.mpr h)

theorem envTime_refused (s : State) (h : s.now + 1#32 = s.lastTick) : envTime s = .refused .beyondEnvironmentBound :=
  if_neg fun hbound => bne_iff_ne.mp hbound h

/-- Settles O9: the guard of each meaning. -/
theorem fiveKindsOfStepAreRefused : Obligations.FiveKindsOfStepAreRefused := by
  unfold Obligations.FiveKindsOfStepAreRefused
  intro s
  refine ⟨rfl, fun _ => rfl, exec_tick_refused s, fun h => ?_, envTime_refused s⟩
  exact if_neg (by simp [h])

/-- Settles O51: the event is taken, and the clock advances. -/
theorem clockAdvancesByOne : Obligations.ClockAdvancesByOne := by
  unfold Obligations.ClockAdvancesByOne
  intro s rest hpending hbound
  exact (step_pending s _ rest hpending).trans (envTime_next _ hbound)

/-- A driven pin takes its level, and no other pin changes (R129). -/
theorem readPin_drivePin (p : Pins) (name q : PinName) (level : Bool) :
    readPin (drivePin p name level) q = if q = name then level else readPin p q := by
  cases name <;> cases q <;> simp [drivePin, readPin]

/-- The encoder channels are the pins whose change sets the pending bit (R129). -/
theorem isEncoderPin_iff (name : PinName) : isEncoderPin name = true ↔ name = .encA ∨ name = .encB := by
  cases name <;> simp [isEncoderPin]

/-- Settles O52: the event is taken, and the pin is driven. -/
theorem pinChangeIsSeen : Obligations.PinChangeIsSeen := by
  unfold Obligations.PinChangeIsSeen
  intro s p v rest hpending
  refine ⟨_, step_pending s _ rest hpending, rfl, ?driven, fun q hq => ?others, ?pending⟩
  case driven => exact (readPin_drivePin _ _ _ _).trans (if_pos rfl)
  case others => exact (readPin_drivePin _ _ _ _).trans (if_neg hq)
  case pending =>
    change (s.encIrqPending || (isEncoderPin p && readPin s.pins p != v)) = true ↔ _
    rw [Bool.or_eq_true, Bool.and_eq_true, isEncoderPin_iff, bne_iff_ne]

/-! Enabled events. -/

/-- A frame that decodes to an instruction runs to a next state (R146). -/
theorem exec_of_decodeFrame {bytes : List Byte} {i : Instr} (s : State) (h : decodeFrame bytes = .ok i) :
    ∃ t, exec i s = .next t := by
  rcases decodeFrame_ok bytes i h with ⟨rfl, -⟩ | ⟨reg, data, rfl, -⟩ | ⟨slots, hslots, rfl, -⟩
  · exact ⟨_, exec_i2cAddrOnly s⟩
  · exact ⟨_, exec_i2cWrite reg data s⟩
  · exact ⟨_, exec_i2cRead _ s _ (List.length_pos_iff.mpr hslots) rfl⟩

theorem tickEnabled_iff (s : State) : tickEnabled s = true ↔ 10#32 ≤ s.now - s.lastTick := decide_eq_true_iff

/-- An enabled code runs to a next state (R52). -/
theorem runCode_of_enabled (c : Code) (s : State) (h : codeEnabled c s = true) : ∃ t, runCode c s = .next t := by
  cases c with
  | frame bytes =>
    cases hdecode : decodeFrame bytes with
    | ok i => exact (exec_of_decodeFrame s hdecode).imp fun t ht => (runCode_ok (c := .frame bytes) s hdecode).trans ht
    | error r =>
      cases r with
      | otherAddress b => exact ⟨s, by rw [runCode, decode, hdecode]⟩
      | noAddressByte | zeroLengthRead => simp [codeEnabled, hdecode] at h
  | tick => exact ⟨_, exec_tick s ((tickEnabled_iff s).mp h)⟩
  | encEdge => exact ⟨_, exec_encEdge s h⟩
  | readAt | writeAt | command => cases h

/-- An enabled event runs to a next state (R52, R54). -/
theorem runEvent_of_enabled (e : Event) (s : State) (h : eventEnabled e s = true) : ∃ t, runEvent e s = .next t := by
  cases e with
  | code c => exact runCode_of_enabled c s h
  | envTime => exact ⟨_, envTime_next s (bne_iff_ne.mp h)⟩
  | envPin p v => exact ⟨_, rfl⟩
  | broken k => cases h

/-- What is enabled does not depend on the pending events and the counter of free choices (log 1). -/
theorem eventEnabled_afterFetch (e : Event) (s : State) (pending : List Event) (picks : Nat) :
    eventEnabled e { s with pending := pending, picks := picks } = eventEnabled e s := by
  cases e with
  | code c => cases c <;> rfl
  | envTime | envPin | broken => rfl

/-- The fallback is enabled: where the clock may not advance, ten milliseconds and more have passed (R125, R128). -/
theorem eventEnabled_fallbackEvent (s : State) : eventEnabled (fallbackEvent s) s = true := by
  by_cases h : withinEnvironmentBound s = true
  · rw [fallbackEvent, if_pos h]
    exact h
  · have hbound : s.now + 1#32 = s.lastTick := by simpa [withinEnvironmentBound] using h
    rw [fallbackEvent, if_neg h]
    refine (tickEnabled_iff s).mpr ?_
    rw [← hbound]
    bv_omega

theorem eventEnabled_freeChoice (s : State) : eventEnabled (freeChoice s) s = true := by
  by_cases h : eventEnabled (Config.freeEvent s.picks) s = true
  · rw [freeChoice, if_pos h]
    exact h
  · rw [freeChoice, if_neg h]
    exact eventEnabled_fallbackEvent s

/-- Settles O8: the event taken, pending or chosen, is enabled in the state it runs in. -/
theorem enabledStepsAreTaken : Obligations.EnabledStepsAreTaken := by
  unfold Obligations.EnabledStepsAreTaken
  constructor
  · intro s e rest hpending henabled
    rw [step_pending s e rest hpending]
    exact runEvent_of_enabled e _ ((eventEnabled_afterFetch e s rest s.picks).trans henabled)
  · intro s hpending
    have henabled := (eventEnabled_afterFetch (freeChoice s) s s.pending (s.picks + 1)).trans (eventEnabled_freeChoice s)
    obtain ⟨t, ht⟩ := runEvent_of_enabled _ _ henabled
    exact ⟨t, (step_free s hpending).trans ht, freeChoice s, henabled, ht⟩

end Sys2Proof.Machine
end

section
/-! The instructions of the bus as moves on the state: whatever frame, per-byte operation or command runs, it is a sequence
of a few moves, so that a property each move keeps is kept by the instruction. Every claim about the whole machine below rests
on this. -/
namespace Sys2Proof.Machine

open Sys2Proof.Safety

/-- The property `P` is kept by every move the instruction `i` can make: moving the pointer and the bytes read, raising one
of the three errors the block raises, a RESET where `i` runs one, a read with side effects, a store where the host writes
with `i`, and a write of CONTROL. -/
structure KeptOnBus (i : Instr) (P : State → Prop) : Prop where
  fields : ∀ u ptr dataOut returned draws, P u →
    P { u with ptr := ptr, dataOut := dataOut, returned := returned, draws := draws }
  raise : ∀ u e, e ∈ [ErrorBit.i2cOverflow, .invalidReg, .invalidCmd] → P u → P (u.raiseError e)
  reset : RunsReset i → ∀ u, P u → P u.bankInit
  changed : ∀ u a, a = 0x52#7 ∨ a = 0x53#7 → P u → P (readChanged a u).2
  delta : ∀ u, P u → P (readEncoderDelta u).2
  store : ∀ u a v, HostWrites i a → (i.wellFormed = true → 0x04#7 ≤ a ∧ a ≠ 0x10#7) → P u → P (u.setCell a v)
  control : ∀ u v, P u → P (writeControl v u).2

namespace KeptOnBus

variable {i : Instr} {P : State → Prop}

theorem supply (h : KeptOnBus i P) (p : Byte) (r : Byte × State) (hr : P r.2) : P (supplyByte p r) :=
  h.fields r.2 (p + 1#8) (r.2.dataOut ++ [r.1]) r.2.returned r.2.draws hr

theorem take (h : KeptOnBus i P) (p : Byte) (r : Result × State) (hr : P r.2) : P (takeByte p r) :=
  h.fields r.2 (p + 1#8) r.2.dataOut r.2.returned r.2.draws hr

/-- A read operation keeps the property (R78). -/
theorem read (h : KeptOnBus i P) (p : Byte) (u : State) (hu : P u) : P (memRead p u).2 := by
  unfold memRead
  split_ifs
  · exact h.raise u .invalidReg (by decide) hu
  · exact h.changed u _ (.inl rfl) hu
  · exact h.changed u _ (.inr rfl) hu
  · exact h.delta u hu
  · exact hu

/-- A command keeps the property (R91). -/
theorem command (h : KeptOnBus i P) (c : Byte) (u : State) (hreset : c = 0x01#8 → RunsReset i) (hu : P u) :
    P (executeCommand c u).2 := by
  rcases executeCommand_cases c u with ⟨hc, hcommand⟩ | hcommand | hcommand <;> rw [hcommand]
  · exact h.reset (hreset hc) u hu
  · exact h.raise u .invalidCmd (by decide) hu
  · exact hu

/-- A write operation keeps the property (R84). -/
theorem write (h : KeptOnBus i P) (p v : Byte) (u : State) (hreset : p = 0xF0#8 → v = 0x01#8 → RunsReset i)
    (hstore : p < 0x80#8 → HostWrites i (cellAddr p)) (hu : P u) : P (memWrite p v u).2 := by
  rcases memWrite_cases p v u with ⟨-, hw⟩ | ⟨hp, hw⟩ | ⟨-, hw⟩ | ⟨⟨h04, h80, h10⟩, hw⟩ <;> rw [hw]
  · exact h.raise u .invalidReg (by decide) hu
  · exact h.command v u (hreset hp) hu
  · exact h.control u v hu
  · have hcell : 0x04#7 ≤ cellAddr p ∧ cellAddr p ≠ 0x10#7 := by
      rw [cellAddr]
      bv_omega
    exact h.store u _ v (hstore h80) (fun _ => hcell) hu

theorem overflow (h : KeptOnBus i P) (n : Nat) (u : State) (hu : P u) : P (raiseIfOverflow n u) := by
  unfold raiseIfOverflow
  split_ifs
  · exact h.raise u .i2cOverflow (by decide) hu
  · exact hu

/-- A read frame keeps the property (R120). -/
theorem readFrame (h : KeptOnBus i P) (n : Nat) (s t : State) (hexec : exec (.i2cRead n) s = .next t) (hs : P s) : P t := by
  rcases Nat.eq_zero_or_pos n with rfl | hn
  · cases hexec
  obtain ⟨u, hu⟩ : ∃ u, u = readBytes (min n 32) { s with dataOut := [] } := ⟨_, rfl⟩
  have hbytes : P u := by
    rw [hu]
    exact readBytes_rel (fun s t => P s → P t) (fun _ => id) (fun _ _ _ h1 h2 => h2 ∘ h1)
      (fun s hs => h.supply _ _ (h.read _ s hs)) _ _ (h.fields s s.ptr [] s.returned s.draws hs)
  rw [exec_i2cRead n s u hn hu] at hexec
  obtain rfl := Host.Outcome.next.inj hexec
  have hover := h.overflow n u hbytes
  rw [raiseIfOverflow_frame] at hover
  exact h.fields _ _ _ _ _ hover

/-- A write frame keeps the property that its own moves keep (R118). -/
theorem writeFrame {reg : Byte} {data : List Byte} (h : KeptOnBus (.i2cWrite reg data) P) (s t : State)
    (hexec : exec (.i2cWrite reg data) s = .next t) (hs : P s) : P t := by
  refine exec_i2cWrite_keeps P hexec (h.fields _ _ _ _ _ (h.overflow _ s hs)) fun v u hmoves hu => ?_
  refine h.take _ _ (h.write u.ptr v u (fun hp hv => ?_) (fun h80 => ⟨v, ?_⟩) hu)
  · rw [hp, hv] at hmoves
    exact hmoves
  · rwa [busAddr_cellAddr u.ptr h80]

/-- An instruction of the bus keeps the property that its moves keep. -/
theorem exec (h : KeptOnBus i P) {s t : State} (htick : i ≠ .tick) (hedge : i ≠ .encEdge)
    (hexec : Machine.exec i s = .next t) (hs : P s) : P t := by
  cases i with
  | i2cWrite => exact h.writeFrame s t hexec hs
  | i2cRead n => exact h.readFrame n s t hexec hs
  | tick => exact absurd rfl htick
  | encEdge => exact absurd rfl hedge
  | bankRd => exact Host.Outcome.next.inj hexec ▸ h.supply _ _ hs
  | bankRdIcl => exact Host.Outcome.next.inj hexec ▸ h.supply _ _ (h.changed s _ (.inl rfl) hs)
  | bankRdIch => exact Host.Outcome.next.inj hexec ▸ h.supply _ _ (h.changed s _ (.inr rfl) hs)
  | bankRdEdelta => exact Host.Outcome.next.inj hexec ▸ h.supply _ _ (h.delta s hs)
  | bankRdInvalid => exact Host.Outcome.next.inj hexec ▸ h.supply _ _ (h.raise s .invalidReg (by decide) hs)
  | bankWr a v =>
    have hwf : (Instr.bankWr a v).wellFormed = true → 0x04#7 ≤ a ∧ a ≠ 0x10#7 := by simp [Instr.wellFormed]
    exact Host.Outcome.next.inj hexec ▸ h.take _ _ (h.store s a v rfl hwf hs)
  | bankWrRo | bankWrInvalid =>
    exact Host.Outcome.next.inj hexec ▸ h.take _ _ (h.raise s .invalidReg (by decide) hs)
  | bankWrControl v => exact Host.Outcome.next.inj hexec ▸ h.take _ _ (h.control s v hs)
  | bankWrCmd v => exact Host.Outcome.next.inj hexec ▸ h.take _ _ (h.command v s id hs)
  | cmdReset => exact Host.Outcome.next.inj hexec ▸ h.reset trivial s hs
  | cmdInvalid => exact Host.Outcome.next.inj hexec ▸ h.raise s .invalidCmd (by decide) hs
  | i2cAddrOnly | cmdNop | cmdFactoryReset | cmdCalibrateVu | cmdTestVuLeft | cmdTestVuRight | cmdTestVuBoth
  | cmdTestBacklight | cmdTestTapeMotor | cmdTestAll => exact Host.Outcome.next.inj hexec ▸ hs

end KeptOnBus

/-! What an event does, said once. -/

/-- An event that has a next state executed an instruction, was a frame addressed elsewhere, or was the environment's. -/
theorem runEvent_cases {e : Event} {s t : State} (h : runEvent e s = .next t) :
    (∃ c i, e = .code c ∧ decode c = .ok i ∧ exec i s = .next t) ∨ t = s ∨ t = { s with now := s.now + 1#32 } ∨
      ∃ p v, t = envPin p v s := by
  cases e with
  | code c =>
    change runCode c s = .next t at h
    cases hdecode : decode c with
    | ok i => exact .inl ⟨c, i, rfl, hdecode, (runCode_ok s hdecode).symm.trans h⟩
    | error r =>
      rw [runCode, hdecode] at h
      cases r with
      | otherAddress b => exact .inr (.inl (Host.Outcome.next.inj h).symm)
      | noAddressByte | zeroLengthRead => cases h
  | envTime =>
    change envTime s = .next t at h
    unfold envTime at h
    split_ifs at h
    exact .inr (.inr (.inl (Host.Outcome.next.inj h).symm))
  | envPin p v => exact .inr (.inr (.inr ⟨p, v, (Host.Outcome.next.inj h).symm⟩))
  | broken => cases h

/-- The code of an internal event is the event (R101, R123). -/
theorem code_of_decode_internal {c : Code} {i : Instr} (h : decode c = .ok i) (hi : i = .tick ∨ i = .encEdge) :
    c = encode i := by
  rcases (decodedCodeIsEncoding c i h).2 with hcode | ⟨slots, hread, -⟩
  · exact hcode.symm
  · rcases hi with rfl | rfl <;> cases hread

theorem eq_encoderInterrupt_of_exec {s t : State} (h : exec .encEdge s = .next t) : t = encoderInterrupt s := by
  change execEncEdge s = .next t at h
  unfold execEncEdge at h
  split_ifs at h
  exact (Host.Outcome.next.inj h).symm

end Sys2Proof.Machine
end

section
/-! The invariant (10_state.md sections 1 to 3): each move of the bus, each phase of the tick and each step of the
environment keeps it. -/
namespace Sys2Proof.Machine

open Sys2Proof.Safety

/-! The canonical form of the bank (log 32). -/

theorem wf_setCell {s : State} {a : RegAddr} {v : Byte} (h : Memory.wf s.bank) : Memory.wf (s.setCell a v).bank :=
  Memory.wf_write s.bank a.toNat v h a.isLt

theorem wf_actResetEncoder {s : State} (h : Memory.wf s.bank) : Memory.wf (actResetEncoder s).bank := by
  unfold actResetEncoder
  split_ifs
  · exact wf_setCell (wf_setCell (wf_setCell (wf_setCell h)))
  · exact h

theorem wf_actClearInputs {s : State} (h : Memory.wf s.bank) : Memory.wf (actClearInputs s).bank := by
  unfold actClearInputs
  split_ifs
  · exact wf_setCell (wf_setCell (wf_setCell (wf_setCell h)))
  · exact h

theorem wf_writeControl {s : State} {v : Byte} (h : Memory.wf s.bank) : Memory.wf (writeControl v s).2.bank :=
  wf_setCell (wf_setCell (wf_actClearInputs (wf_actResetEncoder (wf_setCell h))))

theorem wf_debouncePhase {t : Millis} {s : State} (h : Memory.wf s.bank) : Memory.wf (debouncePhase t s).bank := by
  simp only [debouncePhase, publishInputs]
  split_ifs
  · exact wf_setCell (wf_setCell (wf_setCell (wf_setCell (wf_setCell h))))
  · exact wf_setCell (wf_setCell (wf_setCell (wf_setCell h)))

theorem wf_encoderPublication {s : State} (h : Memory.wf s.bank) : Memory.wf (encoderPublication s).bank := by
  simp only [encoderPublication]
  split_ifs
  · exact wf_setCell (wf_setCell (wf_setCell (wf_setCell h)))
  · exact wf_setCell (wf_setCell (wf_setCell h))

theorem wf_buttonPhase {t : Millis} {s : State} (h : Memory.wf s.bank) : Memory.wf (buttonPhase t s).bank := by
  refine wf_setCell ?_
  unfold classifyButton
  split
  case h_1 => split_ifs; exacts [wf_setCell h, h]
  case h_2 => split_ifs; exacts [wf_setCell h, h, h]
  case h_3 => split_ifs; exacts [wf_setCell h, h]
  case h_4 => split_ifs; exacts [wf_setCell h, h]

theorem wf_outputPhase {s : State} (h : Memory.wf s.bank) : Memory.wf (outputPhase s).bank :=
  wf_setCell (s := { backlightPhase (vuPhase s) with duty := _ })
    (wf_setCell (s := { vuPhase s with duty := _ }) (wf_setCell (s := { s with duty := _ }) h))

/-- A tick keeps the bank's canonical form, phase by phase (R123). -/
theorem wf_tickBody {s : State} (h : Memory.wf s.bank) : Memory.wf (tickBody s).bank := by
  have hinput : Memory.wf (inputPhase s.now s.atTick).bank :=
    wf_buttonPhase (wf_encoderPublication (wf_debouncePhase h))
  exact wf_setCell (wf_outputPhase hinput)

/-! The invariant. -/

/-- The invariant speaks of the bank alone. -/
theorem machineInv_of_bank_eq {s t : State} (h : MachineInv s) (hbank : t.bank = s.bank) : MachineInv t := by
  simpa only [MachineInv, IdentityHolds, ActionBitsClear, State.cell, hbank] using h

/-- The cells the invariant speaks of by name: the identity cells and CONTROL. -/
def pinnedCells : List RegAddr := [0x00#7, 0x01#7, 0x02#7, 0x03#7, 0x10#7]

theorem not_mem_pinnedCells : ∀ a : RegAddr, 0x04#7 ≤ a → a ≠ 0x10#7 → a ∉ pinnedCells := by decide

/-- A state with a canonical bank that reads alike in the cells named meets the invariant too. -/
theorem machineInv_of_cells_eq {s t : State} (h : MachineInv s) (hwf : Memory.wf t.bank)
    (hcell : ∀ a ∈ pinnedCells, t.cell a = s.cell a) : MachineInv t := by
  obtain ⟨-, hidentity, haction⟩ := h
  refine ⟨hwf, ?_, ?_⟩
  · rw [IdentityHolds, hcell _ (by decide), hcell _ (by decide), hcell _ (by decide), hcell _ (by decide)]
    exact hidentity
  · rw [ActionBitsClear, hcell _ (by decide)]
    exact haction

theorem machineInv_setCell {s : State} {a : RegAddr} {v : Byte} (h : MachineInv s) (ha : a ∉ pinnedCells) :
    MachineInv (s.setCell a v) := by
  refine machineInv_of_cells_eq h (wf_setCell h.1) fun b hb => ?_
  rw [State.cell_setCell, if_neg (ne_of_mem_of_not_mem hb ha)]

theorem machineInv_writeControl {s : State} (v : Byte) (h : MachineInv s) : MachineInv (writeControl v s).2 := by
  obtain ⟨hwf, ⟨h0, h1, h2, h3⟩, -⟩ := h
  have hbits : v &&& 0x39#8 &&& 0xC6#8 = 0x00#8 := by rw [BitVec.and_assoc]; exact BitVec.and_zero
  refine ⟨wf_writeControl hwf, ?_, ?_⟩
  · simp [IdentityHolds, cell_writeControl, h0, h1, h2, h3]
  · rw [ActionBitsClear, cell_writeControl, if_pos rfl, hbits]

/-- Every move of a well-formed instruction keeps the invariant. -/
theorem keptOnBus_machineInv (i : Instr) (hi : i.wellFormed = true) : KeptOnBus i MachineInv where
  fields _ _ _ _ _ h := h
  raise _ _ _ h := machineInv_setCell h (by decide)
  reset _ _ _ := resetMeetsInvariant
  changed u a ha h := by
    have hpinned : a ∉ pinnedCells := by rcases ha with rfl | rfl <;> decide
    have hstore : MachineInv (u.setCell a 0#8) := machineInv_setCell h hpinned
    unfold readChanged clearInputChangedIfZero
    split_ifs
    · exact machineInv_setCell hstore (by decide)
    · exact hstore
  delta _ h := machineInv_setCell h (by decide)
  store u a v _ hwf h := by
    obtain ⟨h04, h10⟩ := hwf hi
    exact machineInv_setCell h (not_mem_pinnedCells a h04 h10)
  control _ v h := machineInv_writeControl v h

/-- A well-formed instruction keeps the invariant. -/
theorem exec_keeps_machineInv {i : Instr} {s t : State} (hi : i.wellFormed = true) (h : MachineInv s)
    (hexec : exec i s = .next t) : MachineInv t := by
  by_cases htick : i = .tick
  · subst htick
    obtain rfl := eq_tickBody_of_exec hexec
    exact machineInv_of_cells_eq h (wf_tickBody h.1) fun a ha => cell_tickBody_other s a (by revert a; decide)
  by_cases hedge : i = .encEdge
  · subst hedge
    obtain rfl := eq_encoderInterrupt_of_exec hexec
    exact machineInv_of_bank_eq h rfl
  exact (keptOnBus_machineInv i hi).exec htick hedge hexec h

theorem afterFetch_bank (s : State) : (afterFetch s).bank = s.bank := by
  unfold afterFetch
  split <;> rfl

/-- Settles O10: the event taken executes a well-formed instruction, or leaves the bank alone. -/
theorem stepKeepsInvariant : Obligations.StepKeepsInvariant := by
  unfold Obligations.StepKeepsInvariant
  intro s t h hstep
  have hfetch : MachineInv (afterFetch s) := machineInv_of_bank_eq h (afterFetch_bank s)
  rcases runEvent_cases hstep with ⟨c, i, -, hdecode, hexec⟩ | rfl | rfl | ⟨p, v, rfl⟩
  · exact exec_keeps_machineInv (decodedCodeIsEncoding c i hdecode).1 hfetch hexec
  · exact hfetch
  · exact machineInv_of_bank_eq hfetch rfl
  · exact machineInv_of_bank_eq hfetch rfl

end Sys2Proof.Machine
end

section
/-! What the bus cannot reach (20_memory.md section 1; 10_state.md section 7; 44_i2c_endpoint.md section 1): the engines'
own state, the duties, and the pointer outside of transactions. -/
namespace Sys2Proof.Machine

open Sys2Proof.Safety

/-- The engines' own state is in `t` as it was in `s`, but for the counters, which may both be zeroed (R44). -/
def PrivateKept (s t : State) : Prop :=
  t = { s with bank := t.bank, ptr := t.ptr, position := t.position, deltaAccum := t.deltaAccum,
               dataOut := t.dataOut, returned := t.returned, draws := t.draws } ∧
  (t.position = s.position ∧ t.deltaAccum = s.deltaAccum ∨ t.position = 0#16 ∧ t.deltaAccum = 0#8)

theorem PrivateKept.of_bank {s t u : State} (h : PrivateKept s t) (hu : u = { t with bank := u.bank }) :
    PrivateKept s u := by
  obtain ⟨hframe, hcounters⟩ := h
  rw [hu]
  refine ⟨?_, hcounters⟩
  rw [hframe]

theorem PrivateKept.writeControl {s t : State} (h : PrivateKept s t) (v : Byte) : PrivateKept s (writeControl v t).2 := by
  obtain ⟨hframe, hcounters⟩ := h
  rw [writeControl_frame]
  refine ⟨by rw [hframe], ?_⟩
  cases v[1]
  · exact hcounters
  · exact .inr ⟨rfl, rfl⟩

/-- Every move on the bus keeps the engines' own state. -/
theorem keptOnBus_privateKept (i : Instr) (s : State) : KeptOnBus i (PrivateKept s) where
  fields u ptr dataOut returned draws h := by
    obtain ⟨hframe, hcounters⟩ := h
    refine ⟨?_, hcounters⟩
    rw [hframe]
  raise _ _ _ h := h.of_bank rfl
  reset _ _ h := h.of_bank rfl
  changed u a _ h := h.of_bank (onlyCells_readChanged a u).1
  delta _ h := h.of_bank rfl
  store _ _ _ _ _ h := h.of_bank rfl
  control _ v h := h.writeControl v

/-- Settles O56: every instruction of the bus is moves that keep the engines' own state. -/
theorem privateStateIsUnreachable : Obligations.PrivateStateIsUnreachable := by
  unfold Obligations.PrivateStateIsUnreachable
  intro i s t htick hedge hexec
  exact (keptOnBus_privateKept i s).exec htick hedge hexec ⟨rfl, .inl ⟨rfl, rfl⟩⟩

/-- Settles O54: an event but TICK executes an instruction of the bus or the encoder edge, or is the environment's. -/
theorem onlyTickDrivesDuties : Obligations.OnlyTickDrivesDuties := by
  unfold Obligations.OnlyTickDrivesDuties
  intro e s t he hrun
  rcases runEvent_cases hrun with ⟨c, i, rfl, hdecode, hexec⟩ | rfl | rfl | ⟨p, v, rfl⟩
  · have htick : i ≠ .tick := by
      rintro rfl
      exact he (congrArg Event.code (code_of_decode_internal hdecode (.inl rfl)))
    by_cases hedge : i = .encEdge
    · subst hedge
      rw [eq_encoderInterrupt_of_exec hexec]
      rfl
    · obtain ⟨hframe, -⟩ := privateStateIsUnreachable i s t htick hedge hexec
      rw [hframe]
  · rfl
  · rfl
  · rfl

/-- A tick leaves the pointer (R123). -/
theorem tickBody_ptr (s : State) : (tickBody s).ptr = s.ptr := by
  rw [tickBody_changes]

/-- Settles O55: the codes that are left execute a command, an internal event or an address-only frame. -/
theorem pointerMovesInTransactionsOnly : Obligations.PointerMovesInTransactionsOnly := by
  unfold Obligations.PointerMovesInTransactionsOnly
  intro e s t hread hwrite hreadAt hwriteAt hrun
  rcases runEvent_cases hrun with ⟨c, i, rfl, hdecode, hexec⟩ | rfl | rfl | ⟨p, v, rfl⟩
  · cases c with
    | frame bytes =>
      rcases decodeFrame_ok bytes i hdecode with ⟨rfl, -⟩ | ⟨reg, data, -, rfl⟩ | ⟨slots, -, -, rfl⟩
      · rw [← Host.Outcome.next.inj hexec]
      · exact absurd rfl (hwrite reg data)
      · exact absurd rfl (hread slots)
    | readAt p => exact absurd rfl (hreadAt p)
    | writeAt p v => exact absurd rfl (hwriteAt p v)
    | command c =>
      obtain rfl := Except.ok.inj hdecode
      rw [exec_decodeCommand] at hexec
      rw [← Host.Outcome.next.inj hexec, executeCommand_frame]
    | tick =>
      obtain rfl := Except.ok.inj hdecode
      rw [eq_tickBody_of_exec hexec, tickBody_ptr]
    | encEdge =>
      obtain rfl := Except.ok.inj hdecode
      rw [eq_encoderInterrupt_of_exec hexec]
      rfl
  · rfl
  · rfl
  · rfl

end Sys2Proof.Machine
end

section
/-! The flags (60_exceptions.md section 1; 10_state.md sections 3 and 5): ERROR is sticky, the upper bits of 0x51 stay
clear, and the bits of STATUS keep agreeing with what they mirror. -/
namespace Sys2Proof.Machine

open Sys2Proof.Safety

/-! One cell. -/

/-- What a read of a changed bitmap leaves in the cells (R80, R81). -/
theorem cell_readChanged (a : RegAddr) (s : State) (b : RegAddr) (h11 : b ≠ 0x11#7) (ha : b ≠ a) :
    (readChanged a s).2.cell b = s.cell b :=
  (onlyCells_readChanged a s).2 b (by simp [h11, ha])

/-- A property of one cell, which is none of those that reads and CONTROL's actions touch, is kept by every move when a
raise and a RESET keep it and the host does not write the cell. -/
theorem keptOnBus_cell (i : Instr) (a : RegAddr) (Q : Byte → Prop)
    (ha : a ∉ [0x10#7, 0x11#7, 0x52#7, 0x53#7, 0x60#7, 0x61#7, 0x62#7])
    (hraise : a = 0x12#7 → ∀ v e, e ∈ [ErrorBit.i2cOverflow, .invalidReg, .invalidCmd] → Q v → Q (withError v e))
    (hreset : RunsReset i → Q (bankInitByte a.toNat)) (hstore : ¬ HostWrites i a) :
    KeptOnBus i (fun u => Q (u.cell a)) := by
  simp only [List.mem_cons, List.not_mem_nil, or_false, not_or] at ha
  obtain ⟨h10, h11, h52, h53, h60, h61, h62⟩ := ha
  constructor
  case fields => exact fun _ _ _ _ _ h => h
  case raise =>
    intro u e he h
    by_cases h12 : a = 0x12#7
    · subst h12
      simpa using hraise rfl _ e he h
    · simpa [h12] using h
  case reset => exact fun hrun _ _ => hreset hrun
  case changed =>
    rintro u b (rfl | rfl) h
    · rwa [cell_readChanged _ _ _ h11 h52]
    · rwa [cell_readChanged _ _ _ h11 h53]
  case delta =>
    intro u h
    simpa [readEncoderDelta, h11] using h
  case store =>
    intro u b v hb _ h
    have hne : a ≠ b := by
      rintro rfl
      exact hstore hb
    simpa [hne] using h
  case control =>
    intro u v h
    simpa [cell_writeControl, h10, h11, h52, h53, h60, h61, h62] using h

/-- Bit `k` of ERROR, from the byte `old` to the byte `new`, is not cleared but by a RESET in `i`, and from bit 3 on not
set. -/
def StickyBit (i : Instr) (k : Nat) (old new : Byte) : Prop :=
  (¬ RunsReset i → old.getLsbD k = true → new.getLsbD k = true) ∧ (3 ≤ k → new.getLsbD k = true → old.getLsbD k = true)

/-- Settles O53: the block raises bits 0 to 2 only, and clears none but by RESET. -/
theorem errorBitsAreSticky : Obligations.ErrorBitsAreSticky := by
  unfold Obligations.ErrorBitsAreSticky
  intro i s t k hexec hhost
  by_cases htick : i = .tick
  · subst htick
    rw [eq_tickBody_of_exec hexec, cell_tickBody_other s _ (by decide)]
    exact ⟨fun _ => id, fun _ => id⟩
  by_cases hedge : i = .encEdge
  · subst hedge
    rw [eq_encoderInterrupt_of_exec hexec]
    exact ⟨fun _ => id, fun _ => id⟩
  have hkept := keptOnBus_cell i 0x12#7 (StickyBit i k (s.cell 0x12#7)) (by decide) ?raise ?reset hhost
  · exact hkept.exec htick hedge hexec ⟨fun _ => id, fun _ => id⟩
  case raise =>
    rintro - v e he ⟨hsticky, hhigh⟩
    have hindex : errorIndex e < 3 := by revert e; decide
    rw [StickyBit, getLsbD_withError, Bool.or_eq_true, decide_eq_true_iff]
    exact ⟨fun hrun hset => .inr (hsticky hrun hset), fun h3 hset => hhigh h3 (hset.resolve_left (by omega))⟩
  case reset =>
    intro hrun
    have hzero : bankInitByte (0x12#7 : RegAddr).toNat = 0#8 := rfl
    rw [hzero]
    exact ⟨fun hnot => absurd hrun hnot, fun _ hset => by simp at hset⟩

theorem inputsHigh_upper (m : BitVec 12) : inputsHigh m &&& 0xF0#8 = 0x00#8 := by
  apply BitVec.eq_of_getLsbD_eq
  intro k hk
  have hmask : ∀ k < 8, k < 4 → (0xF0#8).getLsbD k = false := by decide
  rw [BitVec.getLsbD_and, getLsbD_inputsHigh]
  by_cases h4 : k < 4
  · simp [hmask k hk h4]
  · simp [h4]

/-- Settles O59: only the host and the tick store the cell, and the tick publishes four bits in it. -/
theorem inputHighBitsStayClear : Obligations.InputHighBitsStayClear := by
  unfold Obligations.InputHighBitsStayClear
  intro i s t hexec
  by_cases htick : i = .tick
  · subst htick
    obtain rfl := eq_tickBody_of_exec hexec
    have hclear : InputHighBitsClear (tickBody s) := by
      rw [InputHighBitsClear, (inputCells_tickBody s).2.1, inputsHigh_upper]
    exact ⟨fun _ _ => hclear, fun _ => hclear⟩
  refine ⟨fun hclear hhost => ?_, fun h => absurd h htick⟩
  by_cases hedge : i = .encEdge
  · subst hedge
    obtain rfl := eq_encoderInterrupt_of_exec hexec
    exact hclear
  · exact (keptOnBus_cell i 0x51#7 (fun v => v &&& 0xF0#8 = 0x00#8) (by decide) (fun h => absurd h (by decide))
      (fun _ => rfl) hhost).exec htick hedge hexec hclear

/-! The flags of STATUS. -/

/-- STATUS.BUTTON_PRESSED depends on the button's state and on bit 7 of STATUS alone. -/
theorem buttonBitAgrees_congr {s t : State} (h : ButtonBitAgrees s) (hbutton : t.button = s.button)
    (hbit : (t.cell 0x11#7).getLsbD 7 = (s.cell 0x11#7).getLsbD 7) : ButtonBitAgrees t := by
  rw [ButtonBitAgrees, State.status_eq, statusIndex_buttonPressed, hbutton, hbit]
  exact h

/-- The moves of an instruction that neither runs RESET nor lets the host write STATUS keep the button's bit. -/
theorem keptOnBus_buttonBitAgrees (i : Instr) (hreset : ¬ RunsReset i) (hhost : ¬ HostWrites i 0x11#7) :
    KeptOnBus i ButtonBitAgrees where
  fields _ _ _ _ _ h := h
  raise _ _ _ h := buttonBitAgrees_congr h rfl (by simp)
  reset hrun := absurd hrun hreset
  changed u a ha h := by
    refine buttonBitAgrees_congr h (by rw [(onlyCells_readChanged a u).1]) ?_
    have hne : (0x11#7 : RegAddr) ≠ a := by rcases ha with rfl | rfl <;> decide
    rw [readChanged, cell_clearInputChangedIfZero]
    split_ifs
    · simp [hne]
    · simp [hne]
  delta _ h := buttonBitAgrees_congr h rfl (by simp [readEncoderDelta])
  store u a v ha _ h := by
    have hne : (0x11#7 : RegAddr) ≠ a := by
      rintro rfl
      exact hhost ha
    exact buttonBitAgrees_congr h rfl (by simp [hne])
  control u v h := by
    refine buttonBitAgrees_congr h (by rw [writeControl_frame]) ?_
    rw [cell_writeControl, if_neg (by decide), if_neg (by simp), if_neg (by simp)]
    split_ifs
    · simp
    · rfl

/-- A tick keeps the button's bit in step with the button's state (R105). -/
theorem buttonBitAgrees_tick {s t : State} (h : ButtonBitAgrees s) (hexec : exec .tick s = .next t) :
    ButtonBitAgrees t := by
  obtain ⟨hidle, hpress, hhold, hkeep, hrelease, -⟩ := tickClassifiesButton s t hexec
  rw [ButtonBitAgrees, State.status_eq, statusIndex_buttonPressed] at h ⊢
  cases hpin : s.pins.btn with
  | true =>
    by_cases hb : s.button = .released
    · obtain ⟨hbutton, -, -, hbit⟩ := hidle hb hpin
      rw [hbutton, hbit, h, hb]
    · obtain ⟨hbutton, -, -, hbit⟩ := hrelease hb hpin
      rw [hbutton, hbit]
      simp
  | false =>
    cases hb : s.button with
    | released =>
      obtain ⟨hbutton, -, -, hbit⟩ := hpress hb hpin
      rw [hbutton, hbit]
      split_ifs <;> simp
    | pressed =>
      obtain ⟨hbutton, -, -, hbit⟩ := hhold hb hpin
      rw [hbutton, hbit, h, hb]
      split_ifs <;> simp
    | held | doubleClick =>
      obtain ⟨hbutton, -, -, hbit⟩ := hkeep (by simp [hb]) hpin
      rw [hbutton, hbit, h]

/-- Settles O58: the tick moves bit and state together, and no move on the bus touches either. -/
theorem buttonBitKeepsAgreeing : Obligations.ButtonBitKeepsAgreeing := by
  unfold Obligations.ButtonBitKeepsAgreeing
  intro i s t h hexec hreset hhost
  by_cases htick : i = .tick
  · subst htick
    exact buttonBitAgrees_tick h hexec
  by_cases hedge : i = .encEdge
  · subst hedge
    obtain rfl := eq_encoderInterrupt_of_exec hexec
    exact h
  exact (keptOnBus_buttonBitAgrees i hreset hhost).exec htick hedge hexec h

/-- STATUS.INPUT_CHANGED depends on bit 5 of STATUS and on the two bitmaps alone. -/
theorem inputChangedAgrees_iff (s : State) :
    InputChangedAgrees s ↔ ((s.cell 0x11#7).getLsbD 5 = true ↔ s.cell 0x52#7 ≠ 0#8 ∨ s.cell 0x53#7 ≠ 0#8) := Iff.rfl

theorem inputChangedAgrees_congr {s t : State} (h : InputChangedAgrees s)
    (hbit : (t.cell 0x11#7).getLsbD 5 = (s.cell 0x11#7).getLsbD 5) (hlow : t.cell 0x52#7 = s.cell 0x52#7)
    (hhigh : t.cell 0x53#7 = s.cell 0x53#7) : InputChangedAgrees t := by
  rw [inputChangedAgrees_iff, hbit, hlow, hhigh]
  exact h

/-- The moves of an instruction in which the host writes none of the three cells keep the flag of the bitmaps. -/
theorem keptOnBus_inputChangedAgrees (i : Instr) (h11 : ¬ HostWrites i 0x11#7) (h52 : ¬ HostWrites i 0x52#7)
    (h53 : ¬ HostWrites i 0x53#7) : KeptOnBus i InputChangedAgrees where
  fields _ _ _ _ _ h := h
  raise _ _ _ h := inputChangedAgrees_congr h (by simp) (by simp) (by simp)
  reset _ u _ := by
    simp [inputChangedAgrees_iff, bankInitByte]
  changed u a ha h := by
    rw [inputChangedAgrees_iff] at h ⊢
    rcases ha with rfl | rfl
    · by_cases hother : u.cell 0x53#7 = 0#8
      · simp [readChanged, cell_clearInputChangedIfZero, hother]
      · simpa [readChanged, cell_clearInputChangedIfZero, hother] using h
    · by_cases hother : u.cell 0x52#7 = 0#8
      · simp [readChanged, cell_clearInputChangedIfZero, hother]
      · simpa [readChanged, cell_clearInputChangedIfZero, hother] using h
  delta _ h := inputChangedAgrees_congr h (by simp [readEncoderDelta]) (by simp [readEncoderDelta]) (by simp [readEncoderDelta])
  store u a v ha _ h := by
    have hne (b : RegAddr) (hb : ¬ HostWrites i b) : b ≠ a := by
      rintro rfl
      exact hb ha
    exact inputChangedAgrees_congr h (by simp [hne _ h11]) (by simp [hne _ h52]) (by simp [hne _ h53])
  control u v h := by
    rw [inputChangedAgrees_iff] at h ⊢
    cases h2 : v[2] with
    | true => simp [cell_writeControl, h2]
    | false => simpa [cell_writeControl, h2] using h

/-- A tick keeps the flag in step with the bitmaps, to which it only adds bits (R98). -/
theorem inputChangedAgrees_tickBody {s : State} (h : InputChangedAgrees s) : InputChangedAgrees (tickBody s) := by
  rw [inputChangedAgrees_iff] at h ⊢
  obtain ⟨-, -, hlow, hhigh⟩ := inputCells_tickBody s
  have hkept : s.cell 0x52#7 ≠ 0#8 ∨ s.cell 0x53#7 ≠ 0#8 →
      (tickBody s).cell 0x52#7 ≠ 0#8 ∨ (tickBody s).cell 0x53#7 ≠ 0#8 := by
    rw [hlow, hhigh]
    exact Or.imp (mt fun hzero => (BitVec.or_eq_zero_iff.mp hzero).1) (mt fun hzero => (BitVec.or_eq_zero_iff.mp hzero).1)
  rw [inputChanged_tickBody, Bool.or_eq_true, Bool.or_eq_true, h, bne_iff_ne, bne_iff_ne, or_assoc]
  exact or_iff_right_of_imp hkept

/-- Settles O57: the tick sets the flag with the bitmaps, and the moves that clear a bitmap clear the flag with it. -/
theorem inputChangedBitKeepsAgreeing : Obligations.InputChangedBitKeepsAgreeing := by
  unfold Obligations.InputChangedBitKeepsAgreeing
  intro i s t h hexec h11 h52 h53
  by_cases htick : i = .tick
  · subst htick
    obtain rfl := eq_tickBody_of_exec hexec
    exact inputChangedAgrees_tickBody h
  by_cases hedge : i = .encEdge
  · subst hedge
    obtain rfl := eq_encoderInterrupt_of_exec hexec
    exact h
  exact (keptOnBus_inputChangedAgrees i h11 h52 h53).exec htick hedge hexec h

end Sys2Proof.Machine
end
